-- ==== Sys2Proof/Word.lean ====
section
/-! DEFINITION. The bit-vector types of the ports (10_state.md R12) and of a whole operation (30_encoding.md R33). -/

namespace Sys2Proof

/-- A 64-bit port value: a binary64 pattern (30_encoding.md R30) or a two's-complement integer (R38). -/
abbrev B64 := BitVec 64

/-- The operation select (10_state.md R12, `op[1:0]`). -/
abbrev OpCode := BitVec 2

/-- The status output (10_state.md R12, `status[2:0]`). -/
abbrev StatusCode := BitVec 3

/-- One whole operation, the triple `(op, a, b)` of 2 + 64 + 64 = 130 bits (30_encoding.md R33), as one vector:
`op` in bits 1..0, `a` in bits 65..2, `b` in bits 129..66. DESIGN CHOICE (log 3): the spec numbers the bits of each
port but not those of the triple. -/
abbrev Cmd := BitVec 130

end Sys2Proof
end

