-- ==== Sys2Proof/Config.lean ====
section
/-! DEFINITION. The named constants of the block (00_scope.md R5). None is left open and none is a run-time input. -/

namespace Sys2Proof.Config

/-- `EXPW` of 00_scope.md R5: the width of the binary64 exponent field. -/
def expw : Nat := 11

/-- `FRACW` of 00_scope.md R5: the width of the binary64 fraction field. -/
def fracw : Nat := 52

/-- `BIAS` of 00_scope.md R5: the binary64 exponent bias. -/
def bias : Int := 1023

/-- The significand of `MAXF = (2^53 − 1) · 2^971` (00_scope.md R5). -/
def maxfSig : Nat := 2 ^ 53 - 1

/-- The scale of `MAXF = (2^53 − 1) · 2^971` (00_scope.md R5). -/
def maxfExp : Nat := 971

/-- `MAXF` of 00_scope.md R5, the largest finite binary64 magnitude. -/
def maxf : Nat := maxfSig <<< maxfExp

/-- `FAIL_RESULT` of 00_scope.md R5: every result port when the status is not `OK`. -/
def failResult : B64 := 0

/-- The values `ENC_TIE_POLICY` can name. The spec fixes one (00_scope.md R5, decision D21) and defines no other. -/
inductive EncTiePolicy where
  /-- `LARGER_MAGNITUDE`: of two equally near odd multiples of `δ/2`, the one of larger magnitude (41_encoder.md R74). -/
  | largerMagnitude
deriving DecidableEq, Repr

/-- The values `DRND_TIE_POLICY` can name. The spec fixes one (00_scope.md R5, decision D21) and defines no other. -/
inductive DrndTiePolicy where
  /-- `HALF_AWAY_FROM_ZERO`: a quotient halfway between two integers goes to the larger magnitude
  (43_decimal_rounder.md R101). -/
  | halfAwayFromZero
deriving DecidableEq, Repr

/-- `ENC_TIE_POLICY` of 00_scope.md R5. -/
def encTiePolicy : EncTiePolicy := .largerMagnitude

/-- `DRND_TIE_POLICY` of 00_scope.md R5. -/
def drndTiePolicy : DrndTiePolicy := .halfAwayFromZero

end Sys2Proof.Config
end

