-- ==== Sys2Proof/Machine/Arith.lean ====
section
/-! DEFINITION. The integer notation of 00_scope.md R7: `bitlen`, `ctz`, decimal digits, and exact comparison with
`MAXF`. Every function is exact; nothing wraps (40_exponent_extractor.md R59). -/

namespace Sys2Proof.Machine

/-- `bitlen(n)`: the number of bits of `n` (00_scope.md R7). Zero has none. -/
def bitlen (n : Nat) : Nat := if n = 0 then 0 else Nat.log2 n + 1

/-- Trailing zero bits of `n`, looking at no more than `fuel` bits. -/
def ctzFuel : Nat → Nat → Nat
  | 0, _ => 0
  | fuel + 1, n => if n % 2 = 1 then 0 else ctzFuel fuel (n / 2) + 1

/-- `ctz(n)`: the number of trailing zero bits of `n > 0` (00_scope.md R7). -/
def ctz (n : Nat) : Nat := ctzFuel (bitlen n) n

/-- Decimal digits of `n`, counting no more than `fuel + 1` of them. -/
def decimalDigitsFuel : Nat → Nat → Nat
  | 0, _ => 1
  | fuel + 1, n => if n < 10 then 1 else decimalDigitsFuel fuel (n / 10) + 1

/-- The number of decimal digits of `n` (40_exponent_extractor.md R58). -/
def decimalDigits (n : Nat) : Nat := decimalDigitsFuel (bitlen n) n

/-- The exact comparison `n · 2^j > MAXF` (41_encoder.md R71, 42_decoder.md R84), cross-multiplied when `j < 0`. -/
def exceedsMaxf (n : Nat) (j : Int) : Bool :=
  if 0 ≤ j then decide (Config.maxf < n <<< j.toNat) else decide (Config.maxf <<< (-j).toNat < n)

end Sys2Proof.Machine
end

