-- ==== Sys2Proof/Machine/Operands.lean ====
section
/-! DEFINITION. The one operand form: a whole binary64 pattern (30_encoding.md R30 to R32, R39), its fields, class and
exact value. -/

namespace Sys2Proof.Machine

/-- `s = b[63]` (30_encoding.md R30). -/
def signBit (p : B64) : Bool := p.extractLsb 63 63 == 1#1

/-- `E = uint(b[62:52])` (30_encoding.md R30). -/
def expField (p : B64) : Nat := (p.extractLsb 62 52).toNat

/-- `F = uint(b[51:0])` (30_encoding.md R30). -/
def fracField (p : B64) : Nat := (p.extractLsb 51 0).toNat

/-- `fields(b) -> (s, E, F)` (40_exponent_extractor.md R51). -/
def fields (p : B64) : Bool × Nat × Nat := (signBit p, expField p, fracField p)

/-- The classes of a pattern (30_encoding.md R31). -/
inductive FpClass where
  | zero
  | subnormal
  | normal
  | infinity
  | nan
deriving DecidableEq, Repr

/-- `class(b)` (40_exponent_extractor.md R51, 30_encoding.md R31). -/
def classOf (p : B64) : FpClass :=
  if expField p = 0 then
    if fracField p = 0 then .zero else .subnormal
  else if expField p = 2047 then
    if fracField p = 0 then .infinity else .nan
  else .normal

/-- `finite(b)` is `E ≠ 2047` (40_exponent_extractor.md R51). -/
def finite (p : B64) : Bool := expField p != 2047

/-- `iszero(b)` is `E = 0 and F = 0` (40_exponent_extractor.md R51). -/
def iszero (p : B64) : Bool := expField p == 0 && fracField p == 0

/-- `neg(b)` is `s = 1` (40_exponent_extractor.md R51). -/
def neg (p : B64) : Bool := signBit p

/-- `(−1)^s` as a rational. -/
def signOf (s : Bool) : ℚ := if s then -1 else 1

/-- `val(b)` of a finite pattern (30_encoding.md R32), as the exact rational. No operation uses it: it is what the
claims are stated in. For an infinity or a NaN the number it gives means nothing (log 6). -/
def val (p : B64) : ℚ :=
  if expField p = 0 then signOf (signBit p) * (fracField p : ℚ) * (2 : ℚ) ^ (-1074 : ℤ)
  else signOf (signBit p) * ((2 ^ 52 + fracField p : ℕ) : ℚ) * (2 : ℚ) ^ ((expField p : ℤ) - 1075)

end Sys2Proof.Machine
end

