-- ==== Sys2Proof/Machine/Extractor.lean ====
section
/-! DEFINITION. The exponent extractor and the other functions the operations share (40_exponent_extractor.md). Each is
total in Lean; outside the domain its rule names its value means nothing and no operation looks at it (log 6). -/

namespace Sys2Proof.Machine

/-- `sig(b) -> (M, q)` of a finite pattern: `|val(b)| = M · 2^q` (40_exponent_extractor.md R52). -/
def sig (p : B64) : Nat × Int :=
  if expField p = 0 then (fracField p, -1074) else (2 ^ 52 + fracField p, (expField p : Int) - 1075)

/-- `ilog2(b)` of a finite non-zero pattern: the exponent of its leading one bit (40_exponent_extractor.md R53). -/
def ilog2 (p : B64) : Int := (sig p).2 + bitlen (sig p).1 - 1

/-- The pattern with the given sign, exponent field and fraction field (30_encoding.md R30). -/
def ofFields (s : Bool) (e f : Nat) : B64 := BitVec.ofBool s ++ BitVec.ofNat 11 e ++ BitVec.ofNat 52 f

/-- `pow2(k)` for `−1074 ≤ k ≤ 1023`: the pattern of `+2^k` (40_exponent_extractor.md R54). -/
def pow2 (k : Int) : B64 :=
  if -1022 ≤ k then ofFields false (k + Config.bias).toNat 0 else ofFields false 0 (1 <<< (k + 1074).toNat)

/-- `lsb(b) -> (m, j)` of a finite non-zero pattern: `|val(b)| = m · 2^j`, `m` odd (40_exponent_extractor.md R55). -/
def lsb (p : B64) : Nat × Int :=
  ((sig p).1 >>> ctz (sig p).1, (sig p).2 + ctz (sig p).1)

/-- `representable(n, j)`: whether `n · 2^j` is a finite binary64 value (40_exponent_extractor.md R56). -/
def representable (n : Nat) (j : Int) : Bool :=
  if n = 0 then true
  else
    decide (-1074 ≤ j + ctz n) && decide (bitlen (n >>> ctz n) ≤ 53) &&
      decide (j + ctz n + bitlen (n >>> ctz n) ≤ 1024)

/-- The packing of an odd `m` at scale `j`, the reduced form of R57. -/
def packOdd (s : Bool) (m : Nat) (j : Int) : B64 :=
  if -1022 ≤ j + bitlen m - 1 then
    ofFields s (j + bitlen m - 1 + Config.bias).toNat ((m <<< (53 - bitlen m)) - 2 ^ 52)
  else ofFields s 0 (m <<< (j + 1074).toNat)

/-- `pack(s, n, j)` with `representable(n, j)`: the pattern of `(−1)^s · n · 2^j`; zero is always `+0`
(40_exponent_extractor.md R57). -/
def pack (s : Bool) (n : Nat) (j : Int) : B64 :=
  if n = 0 then 0x0000000000000000#64 else packOdd s (n >>> ctz n) (j + ctz n)

/-- `ilog10p2(j) = ⌊log10(2^j)⌋`, by counting decimal digits (40_exponent_extractor.md R58). -/
def ilog10p2 (j : Int) : Int :=
  if 0 ≤ j then (decimalDigits (1 <<< j.toNat) : Int) - 1 else -(decimalDigits (1 <<< (-j).toNat) : Int)

end Sys2Proof.Machine
end

