-- ==== Sys2Proof/Machine/State.lean ====
section
/-! DEFINITION. The ports as plain data, the reasons a step can stop, and the machine before the host drives it. -/

namespace Sys2Proof.Machine

/-- The ports of the block (10_state.md R12). The spec gives the block no other state (R10, R13 to R19); holding the
ports between steps is the model's (log 1). The host writes the three input ports, a step writes the four output
ports. -/
structure State where
  /-- input, operation select -/
  op : OpCode
  /-- input, first operand -/
  a : B64
  /-- input, second operand -/
  b : B64
  /-- output, `OK` or an error kind -/
  status : StatusCode
  /-- output, first result -/
  r0 : B64
  /-- output, second result -/
  r1 : B64
  /-- output, third result -/
  r2 : B64
deriving DecidableEq, Repr

/-- Reasons a step stops. None: the block never hangs, waits or gives no answer (70_reset_and_hazards.md R145), and a
typed failure is a status, not a stop (60_exceptions.md R128). DEDUCED (log 5). Safe: nothing raises one. -/
inductive Fault where
deriving DecidableEq, Repr

/-- Reasons the model gives an operation no meaning. -/
inductive Refusal where
  /-- An arm of `exec` that has no meaning yet; raised by none, since every row of the operation table has its meaning.
  Safe: a refused step proves nothing about the hardware. -/
  | notModelled (mnemonic : String)
deriving DecidableEq, Repr

/-- The ports before the host drives any. The block has no reset input and no reset value (70_reset_and_hazards.md
R140). DESIGN CHOICE (log 2), unsafe: the input ports at 0, and the output ports at what the block answers to those
inputs, `InvalidUncertainty` with zero results (41_encoder.md R66). -/
def State.reset : State where
  op := 0b00#2
  a := 0
  b := 0
  status := 0b001#3
  r0 := 0
  r1 := 0
  r2 := 0

end Sys2Proof.Machine
end

