-- ==== Sys2Proof/Machine/Flags.lean ====
section
/-! DEFINITION. The status output, the only flag-like output of the block (10_state.md R15). -/

namespace Sys2Proof.Machine

/-- The error kinds (30_encoding.md R36, 60_exceptions.md R125). Code 6 is never produced and has no constructor
(93_implementation_defined.md U8). -/
inductive ErrorKind where
  /-- raised by `ENC` and `DRND` -/
  | invalidUncertainty
  /-- raised by `ENC` -/
  | invalidMagnitude
  /-- raised by `DEC` and `DRND` -/
  | zeroOrNonFiniteSignificantValue
  /-- raised by `ENC`, `DEC` and `DRND` -/
  | rangeOverflow
  /-- raised by `ENC` -/
  | unrepresentableResult
  /-- raised by the reserved code -/
  | illegalOperation
deriving DecidableEq, Repr

/-- Status code `OK` (30_encoding.md R36). -/
def statusOK : StatusCode := 0b000#3

/-- The numbering of the error kinds (30_encoding.md R36). -/
def codeOf : ErrorKind → StatusCode
  | .invalidUncertainty => 0b001#3
  | .invalidMagnitude => 0b010#3
  | .zeroOrNonFiniteSignificantValue => 0b011#3
  | .rangeOverflow => 0b100#3
  | .unrepresentableResult => 0b101#3
  | .illegalOperation => 0b111#3

end Sys2Proof.Machine
end

