-- ==== Sys2Proof/Machine/Ops.lean ====
section
/-! DEFINITION. How an operation ends: `return` and `raise` (00_scope.md R8), and what each puts on the output ports. -/

namespace Sys2Proof.Machine

/-- How an operation ends (60_exceptions.md R128: a result record or an error kind). -/
inductive Response where
  /-- `return (r0, r1, r2)` -/
  | returned (r0 r1 r2 : B64)
  /-- `raise <Kind>` -/
  | raised (kind : ErrorKind)
deriving DecidableEq, Repr

/-- Port `status` for a response (30_encoding.md R36). -/
def Response.status : Response → StatusCode
  | .returned _ _ _ => statusOK
  | .raised kind => codeOf kind

/-- Port `r0` for a response (30_encoding.md R37). -/
def Response.r0 : Response → B64
  | .returned r0 _ _ => r0
  | .raised _ => Config.failResult

/-- Port `r1` for a response (30_encoding.md R37). -/
def Response.r1 : Response → B64
  | .returned _ r1 _ => r1
  | .raised _ => Config.failResult

/-- Port `r2` for a response (30_encoding.md R37). -/
def Response.r2 : Response → B64
  | .returned _ _ r2 => r2
  | .raised _ => Config.failResult

/-- The one shared operation that ends every operation, successful or failed: the output ports take the response and
nothing else happens (00_scope.md R8, 60_exceptions.md R128, R129). -/
def State.answer (s : State) (r : Response) : State :=
  { s with status := r.status, r0 := r.r0, r1 := r.r1, r2 := r.r2 }

end Sys2Proof.Machine
end

