-- ==== Sys2Proof/Machine/Decoder.lean ====
section
/-! DEFINITION. The Decoder, operation `DEC` (42_decoder.md). -/

namespace Sys2Proof.Machine

/-- The domain check of `DEC` and `DRND`: a zero of either sign, an infinity or a NaN (42_decoder.md R81,
43_decimal_rounder.md R96). -/
def significantInvalid (a : B64) : Bool := !finite a || iszero a

/-- The results of `DEC` for `|y| = m · 2^j` of sign `s`: `δ` and the interval, the inner end nearer zero
(42_decoder.md R82, R83). -/
def decInterval (s : Bool) (m : Nat) (j : Int) : Response :=
  if s then .returned (pow2 (j + 1)) (pack s (m + 1) j) (pack s (m - 1) j)
  else .returned (pow2 (j + 1)) (pack s (m - 1) j) (pack s (m + 1) j)

/-- The pseudocode of `DEC` (42_decoder.md R80). It has no second operand (R86). -/
def dec (a : B64) : Response :=
  if significantInvalid a then .raised .zeroOrNonFiniteSignificantValue
  else if exceedsMaxf ((lsb a).1 + 1) (lsb a).2 then .raised .rangeOverflow
  else decInterval (signBit a) (lsb a).1 (lsb a).2

/-- `DEC` on the ports. -/
def execDec (y _unused : B64) (s : State) : Host.Outcome State Fault Refusal := .next (s.answer (dec y))

end Sys2Proof.Machine
end

