-- ==== Sys2Proof/Machine/DecimalRounder.lean ====
section
/-! DEFINITION. The Decimal Rounder, operation `DRND` (43_decimal_rounder.md). -/

namespace Sys2Proof.Machine

/-- `N` of the quotient `|y| / γ = N / D` (43_decimal_rounder.md R100). -/
def drndNumerator (m : Nat) (j g : Int) : Nat := if 0 ≤ j then m <<< j.toNat else m * 10 ^ (-g).toNat

/-- `D` of the quotient `|y| / γ = N / D` (43_decimal_rounder.md R100). -/
def drndDenominator (j g : Int) : Nat := if 0 ≤ j then 10 ^ g.toNat else 1 <<< (-j).toNat

/-- The integer a magnitude `N / D` rounds to (43_decimal_rounder.md R101). -/
def roundQuotient : Config.DrndTiePolicy → Nat → Nat → Nat
  | .halfAwayFromZero, n, d => (2 * n + d) / (2 * d)

/-- The sign is put back on the rounded magnitude (43_decimal_rounder.md R101). -/
def withSign (s : Bool) (n : Nat) : Int := if s then -(n : Int) else (n : Int)

/-- The integer `n` of the result for `|y| = m · 2^j` on the grid `10^g` (43_decimal_rounder.md R100, R101). -/
def drndCoefficient (s : Bool) (m : Nat) (j g : Int) : Int :=
  withSign s (roundQuotient Config.drndTiePolicy (drndNumerator m j g) (drndDenominator j g))

/-- The pseudocode of `DRND` (43_decimal_rounder.md R95). -/
def drnd (a b : B64) : Response :=
  if significantInvalid a then .raised .zeroOrNonFiniteSignificantValue
  else if (lsb a).2 = 1023 then .raised .rangeOverflow
  else if b ≠ pow2 ((lsb a).2 + 1) then .raised .invalidUncertainty
  else
    .returned (BitVec.ofInt 64 (drndCoefficient (signBit a) (lsb a).1 (lsb a).2 (ilog10p2 (lsb a).2)))
      (BitVec.ofInt 64 (ilog10p2 (lsb a).2)) 0

/-- `DRND` on the ports. -/
def execDrnd (y d : B64) (s : State) : Host.Outcome State Fault Refusal := .next (s.answer (drnd y d))

end Sys2Proof.Machine
end

