-- ==== Sys2Proof/Machine/Encoder.lean ====
section
/-! DEFINITION. The Encoder, operation `ENC` (41_encoder.md). -/

namespace Sys2Proof.Machine

/-- The uncertainty check: `b` is a NaN, an infinity, a zero of either sign, or has the sign bit set (41_encoder.md R66). -/
def uncertaintyInvalid (b : B64) : Bool := !finite b || iszero b || neg b

/-- The sign the result takes: the sign bit of `a`, and 0 for a zero of either sign (41_encoder.md R68). -/
def encSign (a : B64) : Bool := if iszero a then false else signBit a

/-- `k = floor(|x| / 2^e)`, a shift of the significand (41_encoder.md R70). -/
def encCell (a : B64) (e : Int) : Nat :=
  if iszero a then 0
  else if e ≤ (sig a).2 then (sig a).1 <<< ((sig a).2 - e).toNat
  else (sig a).1 >>> (e - (sig a).2).toNat

/-- The multiple of `δ/2` chosen for the cell `k`. Under `LARGER_MAGNITUDE` it is `2k + 1` also in a tie
(41_encoder.md R70, R74). -/
def encMultiple : Config.EncTiePolicy → Nat → Nat
  | .largerMagnitude, k => 2 * k + 1

/-- The last part of `ENC`: the exact magnitude is `m · 2^j`; range, representability, result
(41_encoder.md R71, R72, R73). -/
def encFinish (s : Bool) (m : Nat) (j : Int) : Response :=
  if exceedsMaxf m j then .raised .rangeOverflow
  else if !representable m j then .raised .unrepresentableResult
  else .returned (pack s m j) 0 0

/-- The pseudocode of `ENC` (41_encoder.md R65). -/
def enc (a b : B64) : Response :=
  if uncertaintyInvalid b then .raised .invalidUncertainty
  else if !finite a then .raised .invalidMagnitude
  else encFinish (encSign a) (encMultiple Config.encTiePolicy (encCell a (ilog2 b))) (ilog2 b - 1)

/-- `ENC` on the ports. -/
def execEnc (x eps : B64) (s : State) : Host.Outcome State Fault Refusal := .next (s.answer (enc x eps))

end Sys2Proof.Machine
end

