-- ==== Sys2Proof/Machine/Reserved.lean ====
section
/-! DEFINITION. The reserved operation code (30_encoding.md R35). -/

namespace Sys2Proof.Machine

/-- `op = 0b11` selects no operation and is answered with `IllegalOperation`, whatever the operands hold
(30_encoding.md R35). -/
def reservedAnswer : Response := .raised .illegalOperation

/-- The reserved code on the ports. -/
def execReserved (_a _b : B64) (s : State) : Host.Outcome State Fault Refusal := .next (s.answer reservedAnswer)

end Sys2Proof.Machine
end

