-- ==== Sys2Proof/Syntax.lean ====
section
/-! DEFINITION. The operations: one constructor per row of spec/opcode_table.json. -/

namespace Sys2Proof

/-- An operation as the host presents it: the operation select with both operand words (30_encoding.md R33).
The operands are taken whole (R39). `DEC` and the reserved code carry the words they ignore, since the host drives
them all the same (log 7). -/
inductive Instr where
  /-- `ENC  y <- x, eps` (41_encoder.md R65). -/
  | enc (x eps : B64)
  /-- `DEC  d, lo, hi <- y` (42_decoder.md R80); `unused` is port `b`, ignored (R86). -/
  | dec (y unused : B64)
  /-- `DRND  n, g <- y, d` (43_decimal_rounder.md R95). -/
  | drnd (y d : B64)
  /-- `RESERVED`, `op = 0b11` (30_encoding.md R35); both operand words are ignored. -/
  | reserved (a b : B64)
deriving DecidableEq, Repr

end Sys2Proof
end

