-- ==== Sys2Proof/Machine/Dispatch.lean ====
section
/-! DEFINITION. One arm per operation. -/

namespace Sys2Proof.Machine

def exec (i : Instr) (s : State) : Host.Outcome State Fault Refusal :=
  match i with
  | .enc x eps => Sys2Proof.Machine.execEnc x eps s
  | .dec y unused => Sys2Proof.Machine.execDec y unused s
  | .drnd y d => Sys2Proof.Machine.execDrnd y d s
  | .reserved a b => Sys2Proof.Machine.execReserved a b s

end Sys2Proof.Machine
end

