-- ==== Sys2Proof/WellFormed.lean ====
section
/-! DEFINITION. Which operations the operation map names. -/

namespace Sys2Proof

/-- The operation is one of the three of the operation map (30_encoding.md R34, complete by 60_exceptions.md R132).
The reserved code "selects no operation" (R35), and that is the only check: every pattern of `a` and `b` is a legal
operand (R35), so no operand can be ill-formed. The reserved code has a meaning all the same: it is answered with
`IllegalOperation`. -/
def Instr.wellFormed : Instr → Bool
  | .enc _ _ => true
  | .dec _ _ => true
  | .drnd _ _ => true
  | .reserved _ _ => false

end Sys2Proof
end

