-- ==== Sys2Proof/Decode.lean ====
section
/-! DEFINITION. Decoding the operation select (30_encoding.md R34, R35) and the encoder that writes the triple. -/

namespace Sys2Proof

/-- Field `op` of an operation (30_encoding.md R33). -/
def opField (w : Cmd) : OpCode := w.extractLsb' 0 2

/-- Field `a` of an operation (30_encoding.md R33). -/
def aField (w : Cmd) : B64 := w.extractLsb' 2 64

/-- Field `b` of an operation (30_encoding.md R33). -/
def bField (w : Cmd) : B64 := w.extractLsb' 66 64

/-- The triple `(op, a, b)` as one vector. The order of the three fields is the model's (log 3). -/
def packCmd (op : OpCode) (a b : B64) : Cmd := b ++ a ++ op

/-- The operation map of 30_encoding.md R34: `match = op`, `mask = 0b11`. Total: the fourth code is the reserved row
(R35), and no pattern of the operands is rejected. -/
def decodeOp (op : OpCode) (a b : B64) : Instr :=
  if op = 0b00#2 then .enc a b
  else if op = 0b01#2 then .dec a b
  else if op = 0b10#2 then .drnd a b
  else .reserved a b

/-- Decoding of a whole operation. -/
def decode (w : Cmd) : Instr := decodeOp (opField w) (aField w) (bField w)

/-- Why a number is no operation. -/
inductive DecodeError where
  /-- The number has a bit above the 130 of the one format; "there is no other length" (30_encoding.md R33). Raised by
  `decodeNat`. Safe: no port can hold such a number. -/
  | longerThanCmd
deriving DecidableEq, Repr

/-- Decoding of a number of any size: an operation, or a rejection by name. -/
def decodeNat (w : Nat) : Except DecodeError Instr :=
  if w < 2 ^ 130 then .ok (decode (BitVec.ofNat 130 w)) else .error .longerThanCmd

/-- The operation code of each row (30_encoding.md R34, R35). -/
def opCodeOf : Instr → OpCode
  | .enc _ _ => 0b00#2
  | .dec _ _ => 0b01#2
  | .drnd _ _ => 0b10#2
  | .reserved _ _ => 0b11#2

/-- The word on port `a` (30_encoding.md R33). -/
def aOf : Instr → B64
  | .enc x _ => x
  | .dec y _ => y
  | .drnd y _ => y
  | .reserved a _ => a

/-- The word on port `b` (30_encoding.md R33). -/
def bOf : Instr → B64
  | .enc _ eps => eps
  | .dec _ unused => unused
  | .drnd _ d => d
  | .reserved _ b => b

/-- The encoder: the triple the host drives for an operation (30_encoding.md R33, R34). -/
def encode (i : Instr) : Cmd := packCmd (opCodeOf i) (aOf i) (bOf i)

/-- The operation the decoder reads from an instruction whose bits are `w`, numbered as spec/opcode_table.json numbers
them; every bit above `nbits` is zero. -/
def decodeTableWord (nbits w : Nat) : Option Instr :=
  match decodeNat (w % 2 ^ nbits) with
  | .ok i => some i
  | .error _ => none

end Sys2Proof
end

