-- ==== Sys2Proof/Machine/Ports.lean ====
section
/-! DEFINITION. Reading and driving the ports: what the block sees on its input ports, and what the host drives there. -/

namespace Sys2Proof.Machine

/-- The operation on the input ports: the triple of their values, all presented at once (30_encoding.md R33). -/
def State.presented (s : State) : Cmd := packCmd s.op s.a s.b

/-- The host drives the input ports with the triple `w`; the output ports are read only after the block has evaluated
them (log 1). -/
def State.drive (s : State) (w : Cmd) : State := { s with op := opField w, a := aField w, b := bField w }

/-- The host presents the operation `i`. -/
def State.present (s : State) (i : Instr) : State := s.drive (encode i)

/-- What the host reads from the output ports (10_state.md R12). -/
def State.outputs (s : State) : StatusCode × B64 × B64 × B64 := (s.status, s.r0, s.r1, s.r2)

/-- The triple an instruction of `nbits` bits `w` stands for, the bits above them zero. -/
def cmdOfTableWord (nbits w : Nat) : Cmd := BitVec.ofNat 130 (w % 2 ^ nbits)

end Sys2Proof.Machine
end

