-- ==== Sys2Proof/Machine/Step.lean ====
section
/-! DEFINITION. One step: the block evaluates the operation on its input ports (60_exceptions.md R134). -/

namespace Sys2Proof.Machine

/-- One evaluation of `(op, a, b)`, atomic (20_memory.md R23, 70_reset_and_hazards.md R146). -/
def step (s : State) : Host.Outcome State Fault Refusal := exec (decode s.presented) s

/-- The instruction `w` driven on the input ports, where the step reads its operation. -/
def State.withFetchWord (s : State) (nbits w : Nat) : State := s.drive (cmdOfTableWord nbits w)

end Sys2Proof.Machine
end

