-- ==== Sys2Proof/Machine/Session.lean ====
section
/-! DEFINITION. The host's use of one block: a list of operations, one after another (10_state.md R11, R14). -/

namespace Sys2Proof.Machine

/-- What the host reads after each operation of a list it drives on one block, in order. The list and the position in it
belong to the host, not to the block (10_state.md R14, log 8). -/
def session : List Instr → State → List (StatusCode × B64 × B64 × B64)
  | [], _ => []
  | i :: rest, s =>
    match step (s.present i) with
    | .next t => t.outputs :: session rest t
    | .fault _ => []
    | .refused _ => []

end Sys2Proof.Machine
end

