-- ==== Sys2Proof/Safety.lean ====
section
/-! DEFINITION. The words the claims use: when results may be used, what the output ports may hold, and the exact
rational meaning of each operation, written from the source's formulas and not from the operations' pseudocode. -/

namespace Sys2Proof.Machine

/-- The host may use the result ports as results (70_reset_and_hazards.md R144 (i)). -/
def State.usable (s : State) : Bool := s.status == statusOK

/-- The output ports hold the answer to what is on the input ports now (70_reset_and_hazards.md R140). -/
def State.settled (s : State) : Prop := step s = .next s

/-- `MAXF` as an exact rational (00_scope.md R5). -/
def maxfVal : ℚ := (2 ^ 53 - 1) * 2 ^ 971

/-- What the result ports hold after an `OK`, for each operation code: 30_encoding.md R37, R38 and R31 (no infinity and
no NaN), 41_encoder.md R73, 42_decoder.md R85, 43_decimal_rounder.md R103. The reserved code is never `OK` (R35). -/
def resultsLegal (op : OpCode) (r0 r1 r2 : B64) : Prop :=
  if op = 0b00#2 then
    finite r0 = true ∧ iszero r0 = false ∧ r1 = 0 ∧ r2 = 0
  else if op = 0b01#2 then
    finite r0 = true ∧ finite r1 = true ∧ finite r2 = true ∧ 0 < val r0 ∧ val r2 = val r1 + val r0 ∧
      (iszero r1 = true → r1 = 0) ∧ (iszero r2 = true → r2 = 0)
  else if op = 0b10#2 then
    r0.toInt ≠ 0 ∧ -(10 * 2 ^ 53) < r0.toInt ∧ r0.toInt < 10 * 2 ^ 53 ∧ -324 ≤ r1.toInt ∧ r1.toInt ≤ 307 ∧ r2 = 0
  else False

/-- What the output ports may hold for the operation code on `op`: a status code the spec numbers (30_encoding.md R36),
`IllegalOperation` for the reserved code alone (R35), all-zero results with every failure (R37), and legal results with
`OK`. -/
def State.outputsLegal (s : State) : Prop :=
  s.status ≠ 6 ∧ (s.status = 7 ↔ s.op = 0b11#2) ∧
    (s.status ≠ statusOK → s.r0 = 0 ∧ s.r1 = 0 ∧ s.r2 = 0) ∧
    (s.status = statusOK → resultsLegal s.op s.r0 s.r1 s.r2)

/-- `δ = 2^⌊log2 ε⌋`, the source's formula (41_encoder.md R69). -/
def deltaOf (ε : ℚ) : ℚ := 2 ^ Int.log 2 ε

/-- The source's formula for the magnitude of the encoded value, `(2·⌊|x|/δ⌋ + 1) · δ/2` (41_encoder.md R70, R75). -/
def encodedMagnitude (x ε : ℚ) : ℚ := (2 * ⌊|x| / deltaOf ε⌋ + 1) * (deltaOf ε / 2)

/-- The encoded value, reflected for `x < 0` (41_encoder.md R68, R75: `sign(0) = +1`). -/
def encodedValue (x ε : ℚ) : ℚ := if x < 0 then -encodedMagnitude x ε else encodedMagnitude x ε

/-- `y` is an odd multiple of `h` (44_properties_and_caveats.md R119, with `h = δ/2`). -/
def oddMultipleOf (y h : ℚ) : Prop := ∃ m : ℤ, Odd m ∧ y = m * h

/-- `γ = 10^⌊log10(δ/2)⌋` for `h = δ/2` (43_decimal_rounder.md R99). -/
def gammaOf (h : ℚ) : ℚ := 10 ^ Int.log 10 h

/-- Round to the nearest integer, halves away from zero (43_decimal_rounder.md R101). -/
def roundHalfAway (q : ℚ) : ℤ := if q < 0 then -⌊-q + 1 / 2⌋ else ⌊q + 1 / 2⌋

/-- The decimal value `z = n · 10^g` the result ports of `DRND` stand for (43_decimal_rounder.md R104). -/
def decimalValue (r0 r1 : B64) : ℚ := (r0.toInt : ℚ) * 10 ^ r1.toInt

end Sys2Proof.Machine
end

