-- ==== Sys2Proof/Certificates/Slice0/Obligations.lean ====
section
/-! DEFINITION. The statements for the provers. Each says what an operation or the block does, in exact rationals
(`val`, R32) and in the source's own formulas (`deltaOf`, `encodedValue`, `roundHalfAway` of Safety.lean), not in the
helper functions of the operations. Numerals written as a status are the codes of 30_encoding.md R36. A state written
`{ s with status := …, r0 := …, r1 := …, r2 := … }` is the frame: the input ports keep their values. -/

open Sys2Proof Sys2Proof.Machine

-- ## Encoding and the step

/-- 30_encoding.md R34: the operation select alone decides which operation a step evaluates, on the words of ports `a`
and `b`. -/
def Obligations.OperationSelectChoosesOperation : Prop :=
  ∀ s : State,
    (s.op = 0b00#2 → step s = exec (.enc s.a s.b) s) ∧
    (s.op = 0b01#2 → step s = exec (.dec s.a s.b) s) ∧
    (s.op = 0b10#2 → step s = exec (.drnd s.a s.b) s) ∧
    (s.op = 0b11#2 → step s = exec (.reserved s.a s.b) s)

/-- Words written out from 30_encoding.md R33 to R35 in the layout of log 3 (DESIGN CHOICE), `op` in bits 1..0, `a` in
bits 65..2, `b` in bits 129..66. -/
def Obligations.SampleWordsDecode : Prop :=
  decodeTableWord 8 0b00 = some (.enc 0 0) ∧
  decodeTableWord 8 0b01 = some (.dec 0 0) ∧
  decodeTableWord 8 0b10 = some (.drnd 0 0) ∧
  decodeTableWord 8 0b11 = some (.reserved 0 0) ∧
  decodeTableWord 136 0xfea6666666666668ff93c0c1fc8f3238 = some (.enc 0x3FE4F0307F23CC8E#64 0x3FA999999999999A#64) ∧
  decodeTableWord 136 0x1ffe0000000000000ff92000000000001 = some (.dec 0x3FE4800000000000#64 0x7FF8000000000000#64) ∧
  decodeTableWord 136 0xfe80000000000000ff92000000000002 = some (.drnd 0x3FE4800000000000#64 0x3FA0000000000000#64) ∧
  decodeTableWord 136 0x3fffffffffffffffdffe0000000000003 =
    some (.reserved 0x7FF8000000000000#64 0xFFFFFFFFFFFFFFFF#64)

/-- Decoding what the encoder writes gives the operation back, for every operation with every operand. The layout of
the triple is log 3 (DESIGN CHOICE). -/
def Obligations.DecodeEncodeRoundTrip : Prop := ∀ i : Instr, decode (encode i) = i

/-- Every triple is some operation's encoding, and one operation's only: no bit of a triple is dropped. The layout of
the triple is log 3 (DESIGN CHOICE). -/
def Obligations.EncodeDecodeRoundTrip : Prop :=
  (∀ w : Cmd, encode (decode w) = w) ∧ ∀ i k : Instr, encode i = encode k → i = k

/-- "There is no other length" (30_encoding.md R33): a number that fits the 130 bits is an operation, and a longer one
is rejected by name (log 3, DESIGN CHOICE). -/
def Obligations.OnlyOneLengthDecodes : Prop :=
  (∀ w : ℕ, w < 2 ^ 130 → decodeNat w = .ok (decode (BitVec.ofNat 130 w))) ∧
    ∀ w : ℕ, 2 ^ 130 ≤ w → decodeNat w = .error .longerThanCmd

/-- A step evaluates the operation on the input ports and adds nothing around it; the host presents an operation by
driving its encoding. -/
def Obligations.StepRunsPresentedOperation : Prop :=
  (∀ (s : State) (i : Instr), decode s.presented = i → step s = exec i s) ∧
    ∀ (s : State) (i : Instr), step (s.present i) = exec i (s.present i)

/-- The word the host's interface places is the operation the next step runs, and placing it leaves the output ports as
they were. All of it is the model's choice: that the output ports still hold the old answer between placing and the step is
log 1, the layout of the word is log 3, and that placing a word stands for the host's driving is log 4 (each a DESIGN
CHOICE; 10_state.md R12 and 70_reset_and_hazards.md R140 have the outputs follow the inputs at once). -/
def Obligations.FetchWordIsRunByNextStep : Prop :=
  ∀ (s : State) (nbits w : ℕ) (i : Instr), decodeTableWord nbits w = some i →
    step (s.withFetchWord nbits w) = exec i (s.withFetchWord nbits w) ∧
      (s.withFetchWord nbits w).outputs = s.outputs

-- ## Purity, totality, the output ports

/-- 70_reset_and_hazards.md R145: every operation and every step answers; nothing hangs, stops or is refused. -/
def Obligations.EveryOperationAnswers : Prop :=
  (∀ (i : Instr) (s : State), ∃ t, exec i s = .next t) ∧ ∀ s : State, ∃ t, step s = .next t

/-- 60_exceptions.md R128, R129 and 10_state.md R12: no operation changes an input port. -/
def Obligations.OperationLeavesInputPorts : Prop :=
  ∀ (i : Instr) (s t : State), exec i s = .next t → t.op = s.op ∧ t.a = s.a ∧ t.b = s.b

/-- 10_state.md R11: equal operations give equal outputs whatever the ports held before, and so do two steps with equal
input ports. -/
def Obligations.EqualInputsGiveEqualOutputs : Prop :=
  (∀ (i : Instr) (s s' : State), ∃ t t', exec i s = .next t ∧ exec i s' = .next t' ∧ t.outputs = t'.outputs) ∧
    ∀ s s' : State, s.op = s'.op → s.a = s'.a → s.b = s'.b → step s = step s'

/-- 10_state.md R11, 44_properties_and_caveats.md R121: in any list of operations driven on one block, from any ports,
each gives exactly the outputs it gives alone on a fresh block. -/
def Obligations.SessionGivesEachOperationItsOwnResult : Prop :=
  ∀ (l : List Instr) (s : State),
    (session l s).length = l.length ∧ session l s = l.flatMap fun i => session [i] State.reset

/-- 20_memory.md R23: with unchanged inputs a second evaluation changes nothing, so every operation is idempotent. -/
def Obligations.EvaluationIsIdempotent : Prop :=
  ∀ s : State, ∃ t, step s = .next t ∧ t.settled

/-- Before the host drives anything the output ports hold the answer to what is on the input ports. The values are the
model's (log 2, DESIGN CHOICE); 70_reset_and_hazards.md R140 asks only that outputs follow inputs. -/
def Obligations.ResetPortsAreSettled : Prop :=
  State.reset.settled ∧ State.reset.op = 0 ∧ State.reset.a = 0 ∧ State.reset.b = 0 ∧ State.reset.outputs = (1, 0, 0, 0)

/-- Invariant `State.outputsLegal`, kept by every step from every state (no premise is needed: the output ports are
computed afresh): a status code the spec numbers and never code 6, `IllegalOperation` for the reserved code alone, zero
results with every failure, and legal results with `OK`: no infinity or NaN, an interval as wide as its positive `δ`,
zero ends `+0`, coefficient and exponent in range (30_encoding.md R31, R36, R37, R38). -/
def Obligations.EveryStepLeavesOutputsLegal : Prop := ∀ s : State, ∃ t, step s = .next t ∧ t.outputsLegal

/-- The output ports are legal before the first step (log 2, DESIGN CHOICE). -/
def Obligations.ResetOutputsLegal : Prop := State.reset.outputsLegal

/-- 60_exceptions.md R128: a failure puts its code on `status` and zero on the result ports, and does nothing else. -/
def Obligations.FailureDoesNothingElse : Prop :=
  ∀ (i : Instr) (s t : State), exec i s = .next t → t.status ≠ 0 →
    t = { s with status := t.status, r0 := 0, r1 := 0, r2 := 0 }

-- ## The reserved code

/-- 30_encoding.md R35: the reserved code is answered with `IllegalOperation` and zero results, whatever the operands; with
every other code every pattern on `a` and `b` is an operand, answered and never with that kind. The rule's last advice,
"treat it as `fault`", is read as this reported failure (log 5). -/
def Obligations.ReservedCodeAnswersIllegalOperation : Prop :=
  (∀ (a b : B64) (s : State), exec (.reserved a b) s = .next { s with status := 7, r0 := 0, r1 := 0, r2 := 0 }) ∧
    (∀ s : State, s.op = 0b11#2 → step s = .next { s with status := 7, r0 := 0, r1 := 0, r2 := 0 }) ∧
    ∀ s : State, s.op ≠ 0b11#2 → ∃ t, step s = .next t ∧ t.status ≠ 7

/-- 30_encoding.md R36, 60_exceptions.md R125: the operations that raise each code. -/
def Obligations.StatusCodesByOperation : Prop :=
  ∀ (i : Instr) (s t : State), exec i s = .next t →
    (t.status = 7 ↔ i.wellFormed = false) ∧ t.status ≠ 6 ∧
      (∀ x e, i = .enc x e → t.status ≠ 3) ∧
      (∀ y u, i = .dec y u → t.status = 0 ∨ t.status = 3 ∨ t.status = 4) ∧
      (∀ y d, i = .drnd y d → t.status = 0 ∨ t.status = 1 ∨ t.status = 3 ∨ t.status = 4)

-- ## The operand format and the shared functions

/-- 30_encoding.md R32: the value is one-to-one on finite patterns except for the two zeros. -/
def Obligations.ValueOneToOneExceptZeros : Prop :=
  (∀ p q : B64, finite p = true → finite q = true → val p = val q → p = q ∨ (iszero p = true ∧ iszero q = true)) ∧
    val 0x0000000000000000#64 = 0 ∧ val 0x8000000000000000#64 = 0

/-- 40_exponent_extractor.md R56: `representable` is exactly "some finite pattern has this value", and for an odd
significand the three conditions are necessary and sufficient. -/
def Obligations.RepresentableIffSomePattern : Prop :=
  (∀ (n : ℕ) (j : ℤ), representable n j = true ↔ ∃ p : B64, finite p = true ∧ val p = n * 2 ^ j) ∧
    ∀ (m : ℕ) (j : ℤ), m % 2 = 1 →
      ((∃ p : B64, finite p = true ∧ val p = m * 2 ^ j) ↔ -1074 ≤ j ∧ bitlen m ≤ 53 ∧ j + bitlen m ≤ 1024)

/-- The implementation note of 40_exponent_extractor.md R58 (G6): the multiplier 78913 / 2^18 gives the decimal exponent
for every `−1100 ≤ j < 1100`, and 1233 / 2^12 is wrong at `j = ±681` and `j = ±877`. -/
def Obligations.DecimalExponentMultiplier : Prop :=
  (∀ j : ℤ, -1100 ≤ j → j < 1100 → ilog10p2 j = j * 78913 / 2 ^ 18) ∧
    ∀ j : ℤ, j = 681 ∨ j = -681 ∨ j = 877 ∨ j = -877 → ilog10p2 j ≠ j * 1233 / 2 ^ 12

/-- 44_properties_and_caveats.md R119: every finite non-zero pattern is an odd multiple of `δ/2` for exactly one power of
two `δ`; its denominator is `2/δ` for `δ ≤ 2`, and 1 for `δ ≥ 4`. -/
def Obligations.EveryPatternCarriesOneDelta : Prop :=
  ∀ p : B64, finite p = true → iszero p = false →
    ∃ k : ℤ, oddMultipleOf (val p) (2 ^ k / 2) ∧ (∀ k' : ℤ, oddMultipleOf (val p) (2 ^ k' / 2) → k' = k) ∧
      (k ≤ 1 → ((val p).den : ℚ) = 2 / 2 ^ k) ∧ (2 ≤ k → (val p).den = 1)

-- ## ENC

/-- 41_encoder.md R73, R75: `ENC` completes with the exact value of the source's formula on the closed domain that R72
gives, and writes nothing but the output ports. -/
def Obligations.EncodeReturnsSourceFormula : Prop :=
  ∀ (s : State) (a b : B64), finite a = true → finite b = true → 0 < val b →
    -1073 ≤ Int.log 2 (val b) → (val a ≠ 0 → Int.log 2 |val a| - Int.log 2 (val b) ≤ 51) →
      ∃ y : B64, exec (.enc a b) s = .next { s with status := 0, r0 := y, r1 := 0, r2 := 0 } ∧
        finite y = true ∧ iszero y = false ∧ val y = encodedValue (val a) (val b)

/-- 41_encoder.md R75: whenever `ENC` returns `OK`, the result has exactly the value of the source's formula. -/
def Obligations.EncodeOkIsExact : Prop :=
  ∀ (s t : State) (a b : B64), exec (.enc a b) s = .next t → t.status = 0 →
    finite t.r0 = true ∧ val t.r0 = encodedValue (val a) (val b)

/-- 41_encoder.md R66, R67, R71, R72 in closed form: the status of `ENC` for every pair of operands. -/
def Obligations.EncodeStatusClosedForm : Prop :=
  ∀ (s : State) (a b : B64), ∃ t, exec (.enc a b) s = .next t ∧
    t.status =
      if ¬(finite b = true ∧ 0 < val b) then 1
      else if ¬finite a = true then 2
      else if |val a| = maxfVal ∧ Int.log 2 (val b) ≤ 971 then 4
      else if Int.log 2 (val b) = -1074 ∨ (val a ≠ 0 ∧ 52 ≤ Int.log 2 |val a| - Int.log 2 (val b)) then 5
      else 0

/-- 60_exceptions.md R126, the row of `ENC`: the causes and their order, by the exact value and not by its bits. -/
def Obligations.EncodeStatusByExactValue : Prop :=
  ∀ (s t : State) (a b : B64), exec (.enc a b) s = .next t →
    (t.status = 1 ↔ ¬(finite b = true ∧ 0 < val b)) ∧
    (t.status = 2 ↔ (finite b = true ∧ 0 < val b) ∧ ¬finite a = true) ∧
    (t.status = 4 ↔ (finite b = true ∧ 0 < val b) ∧ finite a = true ∧ maxfVal < encodedMagnitude (val a) (val b)) ∧
    (t.status = 5 ↔ (finite b = true ∧ 0 < val b) ∧ finite a = true ∧ encodedMagnitude (val a) (val b) ≤ maxfVal ∧
      ¬∃ p : B64, finite p = true ∧ val p = encodedValue (val a) (val b)) ∧
    (t.status = 0 ↔ (finite b = true ∧ 0 < val b) ∧ finite a = true ∧ encodedMagnitude (val a) (val b) ≤ maxfVal ∧
      ∃ p : B64, finite p = true ∧ val p = encodedValue (val a) (val b))

/-- 41_encoder.md R74: when `|x|` is the `k`-th multiple of `δ`, `k ≥ 1`, the result is away from zero, half a `δ` past
`|x|`, for either sign; at `x = 0` it is `+δ/2`. -/
def Obligations.EncodeTieGoesAwayFromZero : Prop :=
  (∀ (s t : State) (a b : B64) (k : ℕ), exec (.enc a b) s = .next t → t.status = 0 →
    1 ≤ k → |val a| = k * deltaOf (val b) →
      |val t.r0| = |val a| + deltaOf (val b) / 2 ∧ (val t.r0 < 0 ↔ val a < 0)) ∧
    ∀ (s t : State) (a b : B64), exec (.enc a b) s = .next t → t.status = 0 → val a = 0 →
      val t.r0 = deltaOf (val b) / 2

/-- 41_encoder.md R68: the sign of a zero operand is ignored and gives `+δ/2`; for a non-zero operand, flipping the sign
flips the sign bit of the result and keeps the status. -/
def Obligations.EncodeReflectsSign : Prop :=
  (∀ (s : State) (b : B64), exec (.enc 0x8000000000000000#64 b) s = exec (.enc 0x0000000000000000#64 b) s) ∧
    (∀ (s : State) (b : B64), finite b = true → 0 < val b → -1073 ≤ Int.log 2 (val b) →
      exec (.enc 0x0000000000000000#64 b) s =
        .next { s with status := 0, r0 := pow2 (Int.log 2 (val b) - 1), r1 := 0, r2 := 0 }) ∧
    ∀ (s t u : State) (a b : B64), finite a = true → iszero a = false → exec (.enc a b) s = .next t →
      exec (.enc (a ^^^ 0x8000000000000000#64) b) s = .next u →
        u.status = t.status ∧ (t.status = 0 → u.r0 = t.r0 ^^^ 0x8000000000000000#64)

/-- 41_encoder.md R76, all seven items: the bound, the distance and when it is reached, the lowest set bit, the sign,
the half-open cell, and the `δ` that `DEC` reads back. -/
def Obligations.EncodePostconditions : Prop :=
  ∀ (s t : State) (a b : B64), exec (.enc a b) s = .next t → t.status = 0 →
    (deltaOf (val b) ≤ val b ∧ val b < 2 * deltaOf (val b)) ∧
    |val a - val t.r0| ≤ deltaOf (val b) / 2 ∧
    (|val a - val t.r0| = deltaOf (val b) / 2 ↔ ∃ k : ℤ, val a = k * deltaOf (val b)) ∧
    oddMultipleOf (val t.r0) (deltaOf (val b) / 2) ∧ (lsb t.r0).2 = Int.log 2 (val b) - 1 ∧
    ((lsb t.r0).1 : ℤ) = 2 * ⌊|val a| / deltaOf (val b)⌋ + 1 ∧
    (val a < 0 → val t.r0 < 0) ∧ (0 ≤ val a → 0 < val t.r0) ∧
    (deltaOf (val b) / 2 ≤ |val t.r0| ∧ 0 < deltaOf (val b) / 2) ∧
    (|val t.r0| - deltaOf (val b) / 2 ≤ |val a| ∧ |val a| < |val t.r0| + deltaOf (val b) / 2) ∧
    (|val t.r0| - deltaOf (val b) / 2 = |val a| ↔ ∃ k : ℤ, val a = k * deltaOf (val b)) ∧
    ∀ (c : B64) (u : State), exec (.dec t.r0 c) t = .next u → u.status = 0 → u.r0 = pow2 (Int.log 2 (val b))

/-- 44_properties_and_caveats.md R118: a significant value of the same `δ` is encoded to itself bit for bit, and a
decoded value re-encoded with its own `δ` is unchanged. -/
def Obligations.EncodeKeepsSignificantValues : Prop :=
  (∀ (s : State) (a b : B64), finite a = true → finite b = true → 0 < val b →
    oddMultipleOf (val a) (deltaOf (val b) / 2) →
      exec (.enc a b) s = .next { s with status := 0, r0 := a, r1 := 0, r2 := 0 }) ∧
    ∀ (s t : State) (y c : B64), exec (.dec y c) s = .next t → t.status = 0 →
      exec (.enc y t.r0) t = .next { t with status := 0, r0 := y, r1 := 0, r2 := 0 }

/-- 95_test_vectors.md section 8, item 5: encoding an encoded value again with the same uncertainty changes nothing. -/
def Obligations.EncodeIsIdempotentOnItsResult : Prop :=
  ∀ (s t : State) (a b : B64), exec (.enc a b) s = .next t → t.status = 0 → exec (.enc t.r0 b) t = .next t

/-- 44_properties_and_caveats.md R116: for one uncertainty the encoder is monotone. -/
def Obligations.EncodeMonotoneForOneUncertainty : Prop :=
  ∀ (s t t' : State) (a a' b : B64), exec (.enc a b) s = .next t → exec (.enc a' b) s = .next t' →
    t.status = 0 → t'.status = 0 → val a ≤ val a' → val t.r0 ≤ val t'.r0

/-- 44_properties_and_caveats.md R116: the source's pair of operands keeps its order, and a pair with two different
uncertainties reverses it. -/
def Obligations.OrderReversalPairs : Prop :=
  ∀ s : State, ∃ ya yb yc : B64,
    exec (.enc 0x3FF0000000000000#64 0x3FD999999999999A#64) s =
      .next { s with status := 0, r0 := ya, r1 := 0, r2 := 0 } ∧
    exec (.enc 0x3FF4CCCCCCCCCCCD#64 0x3FD999999999999A#64) s =
      .next { s with status := 0, r0 := yb, r1 := 0, r2 := 0 } ∧
    exec (.enc 0x3FF0000000000000#64 0x3FF0000000000000#64) s =
      .next { s with status := 0, r0 := yc, r1 := 0, r2 := 0 } ∧
    val ya = 1125 / 1000 ∧ val yb = 1375 / 1000 ∧ val yc = 15 / 10 ∧
    val 0x3FF0000000000000#64 < val 0x3FF4CCCCCCCCCCCD#64 ∧ val ya < val yb ∧ val yb < val yc

/-- 44_properties_and_caveats.md R111: the source's worked example, with its steps `ilog2(ε) = −5`, `δ = 2^−5`, `k = 20`. -/
def Obligations.SourceWorkedExample : Prop :=
  ∀ s : State,
    exec (.enc 0x3FE4F0307F23CC8E#64 0x3FA999999999999A#64) s =
      .next { s with status := 0, r0 := 0x3FE4800000000000#64, r1 := 0, r2 := 0 } ∧
    (∀ c : B64, exec (.dec 0x3FE4800000000000#64 c) s =
      .next { s with status := 0, r0 := 0x3FA0000000000000#64, r1 := 0x3FE4000000000000#64, r2 := 0x3FE5000000000000#64 }) ∧
    val 0x3FE4800000000000#64 = 640625 / 1000000 ∧ val 0x3FA0000000000000#64 = 3125 / 100000 ∧
    Int.log 2 (val 0x3FA999999999999A#64) = -5 ∧ deltaOf (val 0x3FA999999999999A#64) = 3125 / 100000 ∧
    ⌊|val 0x3FE4F0307F23CC8E#64| / deltaOf (val 0x3FA999999999999A#64)⌋ = 20 ∧
    val 0x3FE4800000000000#64 = 41 * 2 ^ (-6 : ℤ)

/-- 44_properties_and_caveats.md R117: the source's three error cases. -/
def Obligations.SourceErrorCases : Prop :=
  ∀ s : State,
    exec (.enc 0x3FF0000000000000#64 0x0000000000000000#64) s =
      .next { s with status := 1, r0 := 0, r1 := 0, r2 := 0 } ∧
    exec (.enc 0x3FF0000000000000#64 0xBFF0000000000000#64) s =
      .next { s with status := 1, r0 := 0, r1 := 0, r2 := 0 } ∧
    ∀ c : B64, exec (.dec 0x0000000000000000#64 c) s = .next { s with status := 3, r0 := 0, r1 := 0, r2 := 0 }

/-- The reason 40_exponent_extractor.md R61 gives: whenever `ENC` returns `OK`, every step of the source's formula (`δ` and
`δ/2`, the scaling, the floor, the doubling, the increment, the final scaling) is an exact binary64 value, except that
`|x|/δ` need not be one when `|x| < δ`, where its floor is 0 either way. -/
def Obligations.EncodeStepsAreBinary64 : Prop :=
  ∀ (s t : State) (a b : B64), exec (.enc a b) s = .next t → t.status = 0 →
    (∃ p, finite p = true ∧ val p = deltaOf (val b)) ∧
    (∃ p, finite p = true ∧ val p = deltaOf (val b) / 2) ∧
    (|val a| < deltaOf (val b) ∧ ⌊|val a| / deltaOf (val b)⌋ = 0 ∨
      ∃ p, finite p = true ∧ val p = |val a| / deltaOf (val b)) ∧
    (∃ p, finite p = true ∧ val p = (⌊|val a| / deltaOf (val b)⌋ : ℚ)) ∧
    (∃ p, finite p = true ∧ val p = 2 * (⌊|val a| / deltaOf (val b)⌋ : ℚ)) ∧
    (∃ p, finite p = true ∧ val p = 2 * (⌊|val a| / deltaOf (val b)⌋ : ℚ) + 1) ∧
    ∃ p, finite p = true ∧ val p = (2 * (⌊|val a| / deltaOf (val b)⌋ : ℚ) + 1) * (deltaOf (val b) / 2)

-- ## DEC

/-- 42_decoder.md R83, R85: for `|y| = m · 2^j`, `m` odd, `DEC` completes with `δ = 2^(j+1)` and the two ends `y − δ/2`
and `y + δ/2`, whenever the end farther from zero is at most `MAXF`, which is the domain that R84 gives. Both ends are multiples of `δ`, at most one is a zero,
a zero end is `+0`, and zero is not between them. -/
def Obligations.DecodeReturnsDeltaAndInterval : Prop :=
  ∀ (s : State) (a b : B64) (m : ℕ) (j : ℤ), finite a = true → m % 2 = 1 → |val a| = m * 2 ^ j →
    ((m : ℚ) + 1) * 2 ^ j ≤ maxfVal →
      ∃ d lo hi : B64, exec (.dec a b) s = .next { s with status := 0, r0 := d, r1 := lo, r2 := hi } ∧
        d = pow2 (j + 1) ∧ finite d = true ∧ finite lo = true ∧ finite hi = true ∧
        val d = 2 ^ (j + 1) ∧ val lo = val a - 2 ^ j ∧ val hi = val a + 2 ^ j ∧
        (∃ k : ℤ, val lo = k * 2 ^ (j + 1)) ∧ (∃ k : ℤ, val hi = k * 2 ^ (j + 1)) ∧
        (iszero lo = true → lo = 0) ∧ (iszero hi = true → hi = 0) ∧ ¬(iszero lo = true ∧ iszero hi = true) ∧
        ¬(val lo < 0 ∧ 0 < val hi) ∧ iszero d = false ∧ -1073 ≤ j + 1 ∧ j + 1 ≤ 1023

/-- 42_decoder.md R81, R84: the status of `DEC` for every operand; `RangeOverflow` for exactly the magnitudes
`2^1024 − 2^i`, `971 ≤ i ≤ 1023`. -/
def Obligations.DecodeStatusClosedForm : Prop :=
  ∀ (s t : State) (a b : B64), exec (.dec a b) s = .next t →
    (t.status = 3 ↔ finite a = false ∨ iszero a = true) ∧
    (t.status = 4 ↔ finite a = true ∧ ∃ i : ℕ, 971 ≤ i ∧ i ≤ 1023 ∧ |val a| = 2 ^ 1024 - 2 ^ i) ∧
    (t.status = 0 ↔ finite a = true ∧ iszero a = false ∧ ¬∃ i : ℕ, 971 ≤ i ∧ i ≤ 1023 ∧ |val a| = 2 ^ 1024 - 2 ^ i)

/-- 42_decoder.md R84: the magnitudes that overflow are the ones whose pattern has `E = 2046` and a fraction of `t` ones
followed by `52 − t` zeros. -/
def Obligations.DecodeOverflowPatterns : Prop :=
  ∀ (s t : State) (a b : B64), exec (.dec a b) s = .next t →
    (t.status = 4 ↔ expField a = 2046 ∧ ∃ k : ℕ, k ≤ 52 ∧ fracField a = 2 ^ 52 - 2 ^ k)

/-- 42_decoder.md R86: `DEC` ignores port `b` completely. -/
def Obligations.DecodeIgnoresSecondOperand : Prop :=
  (∀ (s : State) (a b b' : B64), exec (.dec a b) s = exec (.dec a b') s) ∧
    ∀ (s : State) (b' : B64), s.op = 0b01#2 →
      ∃ t t', step s = .next t ∧ step { s with b := b' } = .next t' ∧ t.outputs = t'.outputs

/-- 42_decoder.md R82, R83: `−y` has the same `δ` and status as `y`, and the interval negated and swapped. -/
def Obligations.DecodeReflectsSign : Prop :=
  ∀ (s t u : State) (a b : B64), exec (.dec a b) s = .next t →
    exec (.dec (a ^^^ 0x8000000000000000#64) b) s = .next u →
      u.status = t.status ∧ u.r0 = t.r0 ∧ val u.r1 = -val t.r2 ∧ val u.r2 = -val t.r1

/-- 44_properties_and_caveats.md R113 and 42_decoder.md R87 (i) to (iii): what holds of every `OK` result of `DEC`,
whether or not the encoder produced the operand. -/
def Obligations.DecodePostconditions : Prop :=
  ∀ (s t : State) (a b : B64), exec (.dec a b) s = .next t → t.status = 0 →
    (∃ k : ℤ, val t.r0 = 2 ^ k) ∧ oddMultipleOf (val a) (val t.r0 / 2) ∧
    val t.r1 = val a - val t.r0 / 2 ∧ val t.r2 = val a + val t.r0 / 2 ∧
    val t.r1 < val a ∧ val a < val t.r2 ∧ val t.r2 - val t.r1 = val t.r0 ∧
    (∃ k : ℤ, val t.r1 = k * val t.r0) ∧ ∃ k : ℤ, val t.r2 = k * val t.r0

/-- 42_decoder.md R88 and 44_properties_and_caveats.md R112: decoding an encoded value gives back the encoder's `δ` and
an interval that holds the original value; it fails only for the magnitudes of R84. -/
def Obligations.DecodeInvertsEncode : Prop :=
  ∀ (s t : State) (a b c : B64), exec (.enc a b) s = .next t → t.status = 0 →
    ∃ u, exec (.dec t.r0 c) t = .next u ∧
      (u.status = 0 →
        u.r0 = pow2 (Int.log 2 (val b)) ∧ val u.r0 = deltaOf (val b) ∧ val u.r0 ≤ val b ∧ val b < 2 * val u.r0 ∧
        |val a - val t.r0| ≤ val u.r0 / 2 ∧ val u.r1 ≤ val a ∧ val a ≤ val u.r2) ∧
      (u.status ≠ 0 → ∃ i : ℕ, 971 ≤ i ∧ i ≤ 1023 ∧ |val t.r0| = 2 ^ 1024 - 2 ^ i)

/-- 70_reset_and_hazards.md R144 (i): the result of a failed `ENC`, fed to `DEC` without a check, is reported there. -/
def Obligations.UncheckedFailureSurfacesAtDecode : Prop :=
  ∀ (s t : State) (a b c : B64), exec (.enc a b) s = .next t → t.usable = false →
    exec (.dec t.r0 c) t = .next { t with status := 3, r0 := 0, r1 := 0, r2 := 0 }

-- ## DRND

/-- 43_decimal_rounder.md R99, R101, R104: for `|y| = m · 2^j`, `m` odd, `j ≤ 1022`, with `δ = 2^(j+1)` on `b`, `DRND`
completes with `g = ⌊log10 2^j⌋` and `n` the nearest integer to `y / 10^g`, halves away from zero. -/
def Obligations.RoundReturnsNearestDecimal : Prop :=
  ∀ (s : State) (a b : B64) (m : ℕ) (j : ℤ), finite a = true → m % 2 = 1 → |val a| = m * 2 ^ j → j ≤ 1022 →
    finite b = true → val b = 2 ^ (j + 1) →
      ∃ n g : B64, exec (.drnd a b) s = .next { s with status := 0, r0 := n, r1 := g, r2 := 0 } ∧
        g.toInt = Int.log 10 ((2 : ℚ) ^ j) ∧ n.toInt = roundHalfAway (val a / gammaOf (2 ^ j))

/-- 43_decimal_rounder.md R96, R97, R98 and the row of `DRND` in 60_exceptions.md R126: the status for every pair of
operands. -/
def Obligations.RoundStatusClosedForm : Prop :=
  ∀ (s t : State) (a b : B64), exec (.drnd a b) s = .next t →
    (t.status = 3 ↔ finite a = false ∨ iszero a = true) ∧
    (t.status = 4 ↔ finite a = true ∧ |val a| = 2 ^ 1023) ∧
    (t.status = 1 ↔ finite a = true ∧ iszero a = false ∧ |val a| ≠ 2 ^ 1023 ∧
      ¬(finite b = true ∧ (∃ k : ℤ, val b = 2 ^ k) ∧ oddMultipleOf (val a) (val b / 2))) ∧
    (t.status = 0 ↔ finite a = true ∧ iszero a = false ∧ |val a| ≠ 2 ^ 1023 ∧
      finite b = true ∧ (∃ k : ℤ, val b = 2 ^ k) ∧ oddMultipleOf (val a) (val b / 2))

/-- 43_decimal_rounder.md R98: the operand `b` is accepted bit for bit as the `δ` that `y` carries, and any other is
`InvalidUncertainty`. -/
def Obligations.RoundAcceptsOnlyCarriedDelta : Prop :=
  ∀ (s : State) (a b : B64) (m : ℕ) (j : ℤ), finite a = true → m % 2 = 1 → |val a| = m * 2 ^ j → j ≤ 1022 →
    (b ≠ pow2 (j + 1) → exec (.drnd a b) s = .next { s with status := 1, r0 := 0, r1 := 0, r2 := 0 }) ∧
      (b = pow2 (j + 1) → ∃ t, exec (.drnd a b) s = .next t ∧ t.status = 0)

/-- 43_decimal_rounder.md R102: the quotient is a half-integer exactly when `δ = 1/2`; then `γ = 1/10` and the magnitude
of `n` is half a unit above the quotient, for every `y`. -/
def Obligations.RoundTiesExactlyAtOneHalf : Prop :=
  ∀ (s t : State) (a b : B64), exec (.drnd a b) s = .next t → t.status = 0 →
    ((∃ k : ℤ, |val a| / 10 ^ t.r1.toInt = k + 1 / 2) ↔ val b = 1 / 2) ∧
    (val b = 1 / 2 → t.r1.toInt = -1 ∧ |(t.r0.toInt : ℚ)| = |val a| * 10 + 1 / 2)

/-- 43_decimal_rounder.md R103: the coefficient is never zero, stays below `10 · 2^53`, has the sign of `y`, and its
largest magnitude is 89978275890863918, which is reached. -/
def Obligations.RoundCoefficientRange : Prop :=
  (∀ (s t : State) (a b : B64), exec (.drnd a b) s = .next t → t.status = 0 →
    1 ≤ |t.r0.toInt| ∧ |t.r0.toInt| ≤ 10 * 2 ^ 53 - 1 ∧ |t.r0.toInt| ≤ 89978275890863918 ∧
      (t.r0.toInt < 0 ↔ val a < 0)) ∧
    ∀ s : State, ∃ n g : B64,
      exec (.drnd 0x618FFFFFFFFFFFFF#64 0x5E50000000000000#64) s =
        .next { s with status := 0, r0 := n, r1 := g, r2 := 0 } ∧ n.toInt = 89978275890863918

/-- 43_decimal_rounder.md R105 (i), (ii), (iv) and R99: how near `z` is to `y`, when the distance is reached, and when
`z = y`. -/
def Obligations.RoundPostconditions : Prop :=
  ∀ (s t : State) (a b : B64), exec (.drnd a b) s = .next t → t.status = 0 →
    ((10 : ℚ) ^ t.r1.toInt ≤ val b / 2 ∧ val b / 2 < 10 * 10 ^ t.r1.toInt) ∧
    ((10 : ℚ) ^ t.r1.toInt = val b / 2 ↔ val b = 2) ∧
    |val a - decimalValue t.r0 t.r1| ≤ 10 ^ t.r1.toInt / 2 ∧
    (|val a - decimalValue t.r0 t.r1| = 10 ^ t.r1.toInt / 2 ↔ val b = 1 / 2) ∧
    |val a - decimalValue t.r0 t.r1| ≤ val b / 4 ∧
    ((∃ k : ℤ, val b / 2 = k * 10 ^ t.r1.toInt) ↔ 1 ≤ val b ∧ val b ≤ 16) ∧
    (1 ≤ val b → val b ≤ 16 → decimalValue t.r0 t.r1 = val a)

/-- 43_decimal_rounder.md R101: `DRND(−y, δ)` has the same status and `g`, and `n` negated. -/
def Obligations.RoundReflectsSign : Prop :=
  ∀ (s t u : State) (a b : B64), exec (.drnd a b) s = .next t →
    exec (.drnd (a ^^^ 0x8000000000000000#64) b) s = .next u →
      u.status = t.status ∧ u.r1 = t.r1 ∧ u.r0.toInt = -t.r0.toInt

/-- 43_decimal_rounder.md R106: from `z` together with `δ`, `y` is recoverable, as the one odd multiple of `δ/2` within
`δ/4` of `z`. -/
def Obligations.DecimalWithDeltaDeterminesY : Prop :=
  (∀ (s t t' : State) (a a' b : B64), exec (.drnd a b) s = .next t → exec (.drnd a' b) s = .next t' →
    t.status = 0 → t'.status = 0 → decimalValue t.r0 t.r1 = decimalValue t'.r0 t'.r1 → a = a') ∧
    ∀ (s t : State) (a b : B64), exec (.drnd a b) s = .next t → t.status = 0 →
      ∀ y : ℚ, oddMultipleOf y (val b / 2) → |y - decimalValue t.r0 t.r1| ≤ |val a - decimalValue t.r0 t.r1| → y = val a

/-- 44_properties_and_caveats.md R115: three `δ` share one `γ`, and two different operand pairs mean the same decimal. -/
def Obligations.DecimalAloneDeterminesNothing : Prop :=
  ∀ s : State,
    exec (.drnd 0x4030000000000000#64 0x4040000000000000#64) s = .next { s with status := 0, r0 := 2, r1 := 1, r2 := 0 } ∧
    exec (.drnd 0x4040000000000000#64 0x4050000000000000#64) s = .next { s with status := 0, r0 := 3, r1 := 1, r2 := 0 } ∧
    exec (.drnd 0x4050000000000000#64 0x4060000000000000#64) s = .next { s with status := 0, r0 := 6, r1 := 1, r2 := 0 } ∧
    exec (.drnd 0x4058000000000000#64 0x4050000000000000#64) s = .next { s with status := 0, r0 := 10, r1 := 1, r2 := 0 } ∧
    exec (.drnd 0x4060000000000000#64 0x4070000000000000#64) s = .next { s with status := 0, r0 := 1, r1 := 2, r2 := 0 } ∧
    decimalValue 10 1 = 100 ∧ decimalValue 1 2 = 100

/-- 44_properties_and_caveats.md R110 and 95_test_vectors.md section 8, item 8: the results of one operation are the
operands the next expects. The lowest set bit of an encoded value has weight at most `2^1022` (41_encoder.md R76), so
`DRND` of it never overflows. -/
def Obligations.PipelineOperandsFit : Prop :=
  (∀ (s t : State) (a b : B64), exec (.enc a b) s = .next t → t.status = 0 →
    (∀ (c : B64) (u : State), exec (.dec t.r0 c) t = .next u → u.status = 0 ∨ u.status = 4) ∧
    ∀ (d : B64) (u : State), exec (.drnd t.r0 d) t = .next u → u.status = 0 ∨ u.status = 1) ∧
    ∀ (s t : State) (y c : B64), exec (.dec y c) s = .next t → t.status = 0 →
      ∃ u, exec (.drnd y t.r0) t = .next u ∧ u.status = 0

/-- 44_properties_and_caveats.md R114: after a successful `ENC` and `DEC`, `DRND` succeeds and its `z` is within
`γ/2 + δ/2 < δ ≤ ε` of the original `x`; the source's `γ + δ/2 < δ` holds except at `δ = 2`. -/
def Obligations.PipelineDisplayBound : Prop :=
  ∀ (s t u : State) (a b c : B64), exec (.enc a b) s = .next t → t.status = 0 →
    exec (.dec t.r0 c) t = .next u → u.status = 0 →
      ∃ v, exec (.drnd t.r0 u.r0) u = .next v ∧ v.status = 0 ∧
        |val a - decimalValue v.r0 v.r1| ≤ 10 ^ v.r1.toInt / 2 + val u.r0 / 2 ∧
        10 ^ v.r1.toInt / 2 + val u.r0 / 2 ≤ 3 * val u.r0 / 4 ∧
        10 ^ v.r1.toInt / 2 + val u.r0 / 2 < val u.r0 ∧ val u.r0 ≤ val b ∧
        |val a - decimalValue v.r0 v.r1| ≤ 10 ^ v.r1.toInt + val u.r0 / 2 ∧
        (10 ^ v.r1.toInt + val u.r0 / 2 < val u.r0 ↔ val u.r0 ≠ 2)
end

