-- ==== Sys2Proof/Laws/Arith.lean ====
section
/-! SUPPORT. What the integer notation of 00_scope.md R7 means. -/

namespace Sys2Proof.Machine

theorem lt_two_pow_bitlen (n : Nat) : n < 2 ^ bitlen n := by
  unfold bitlen
  split
  · omega
  · exact Nat.lt_log2_self

theorem two_pow_le_of_bitlen {n : Nat} (h : 0 < n) : 0 < bitlen n ∧ 2 ^ (bitlen n - 1) ≤ n := by
  have hn : n ≠ 0 := by omega
  simp only [bitlen, if_neg hn]
  exact ⟨by omega, by simpa using Nat.log2_self_le hn⟩

/-- `bitlen` is the only number its two bounds allow. -/
theorem bitlen_eq {n k : Nat} (h1 : 2 ^ k ≤ n) (h2 : n < 2 ^ (k + 1)) : bitlen n = k + 1 := by
  have hn : 0 < n := lt_of_lt_of_le (by positivity) h1
  obtain ⟨hp, hb⟩ := two_pow_le_of_bitlen hn
  have h3 : k < bitlen n := (Nat.pow_lt_pow_iff_right (by norm_num)).1 (h1.trans_lt (lt_two_pow_bitlen n))
  have h4 : bitlen n - 1 < k + 1 := (Nat.pow_lt_pow_iff_right (by norm_num)).1 (hb.trans_lt h2)
  omega

theorem bitlen_le_iff {n k : Nat} : bitlen n ≤ k ↔ n < 2 ^ k := by
  constructor
  · intro h
    exact (lt_two_pow_bitlen n).trans_le (Nat.pow_le_pow_right (by norm_num) h)
  · intro h
    rcases Nat.eq_zero_or_pos n with rfl | hn
    · simp [bitlen]
    · obtain ⟨hp, hb⟩ := two_pow_le_of_bitlen hn
      have := (Nat.pow_lt_pow_iff_right (by norm_num)).1 (hb.trans_lt h)
      omega

theorem ctzFuel_spec (fuel : Nat) :
    ∀ n, 0 < n → n < 2 ^ fuel → 2 ^ ctzFuel fuel n ∣ n ∧ n / 2 ^ ctzFuel fuel n % 2 = 1 := by
  induction fuel with
  | zero => intro n h1 h2; simp at h2; omega
  | succ f ih =>
    intro n h1 h2
    unfold ctzFuel
    split
    · next h => simpa using h
    · next h =>
      obtain ⟨hd, ho⟩ := ih (n / 2) (by omega) (by omega)
      have hn : n = 2 * (n / 2) := by omega
      refine ⟨?_, ?_⟩
      · rw [pow_succ, mul_comm]
        conv_rhs => rw [hn]
        exact Nat.mul_dvd_mul_left 2 hd
      · rwa [pow_succ, mul_comm, ← Nat.div_div_eq_div_mul]

/-- `ctz` splits a positive number into an odd part and a power of two. -/
theorem ctz_spec {n : Nat} (h : 0 < n) : n = (n >>> ctz n) * 2 ^ ctz n ∧ n >>> ctz n % 2 = 1 := by
  obtain ⟨hd, ho⟩ := ctzFuel_spec _ n h (lt_two_pow_bitlen n)
  rw [Nat.shiftRight_eq_div_pow]
  exact ⟨(Nat.div_mul_cancel hd).symm, ho⟩

theorem ctz_of_odd {n : Nat} (h : n % 2 = 1) : ctz n = 0 := by
  have hn : 0 < n := by omega
  obtain ⟨hp, -⟩ := two_pow_le_of_bitlen hn
  obtain ⟨f, hf⟩ := Nat.exists_eq_succ_of_ne_zero hp.ne'
  simp [ctz, hf, ctzFuel, h]

theorem decimalDigitsFuel_spec (fuel : Nat) :
    ∀ n, 0 < n → n < 10 ^ (fuel + 1) →
      0 < decimalDigitsFuel fuel n ∧ 10 ^ (decimalDigitsFuel fuel n - 1) ≤ n ∧ n < 10 ^ decimalDigitsFuel fuel n := by
  induction fuel with
  | zero => intro n h1 h2; simp [decimalDigitsFuel] at *; omega
  | succ f ih =>
    intro n h1 h2
    unfold decimalDigitsFuel
    split
    · next h => simp; omega
    · next h =>
      obtain ⟨hp, hl, hu⟩ := ih (n / 10) (by omega) (by rw [pow_succ] at h2; omega)
      refine ⟨by omega, ?_, ?_⟩
      · obtain ⟨d, hd⟩ := Nat.exists_eq_succ_of_ne_zero hp.ne'
        rw [hd] at hl ⊢
        simp only [Nat.succ_eq_add_one, Nat.add_sub_cancel] at hl ⊢
        rw [pow_succ]; omega
      · rw [pow_succ]; omega

/-- The number of decimal digits of a positive integer. -/
theorem decimalDigits_spec {n : Nat} (h : 0 < n) :
    0 < decimalDigits n ∧ 10 ^ (decimalDigits n - 1) ≤ n ∧ n < 10 ^ decimalDigits n := by
  refine decimalDigitsFuel_spec _ n h ?_
  calc n < 2 ^ bitlen n := lt_two_pow_bitlen n
    _ ≤ 10 ^ bitlen n := Nat.pow_le_pow_left (by norm_num) _
    _ ≤ 10 ^ (bitlen n + 1) := Nat.pow_le_pow_right (by norm_num) (by omega)

/-- `MAXF` as the rule prints it (00_scope.md R5). -/
theorem maxf_cast : ((Config.maxf : ℕ) : ℚ) = (2 ^ 53 - 1) * 2 ^ 971 := by
  have hs : ((Config.maxfSig : ℕ) : ℚ) = 2 ^ 53 - 1 := by norm_num [Config.maxfSig]
  have he : Config.maxfExp = 971 := rfl
  rw [Config.maxf, Nat.shiftLeft_eq, Nat.cast_mul, Nat.cast_pow, hs, he, Nat.cast_ofNat]

/-- The exact comparison with `MAXF`, in rationals. -/
theorem exceedsMaxf_iff (n : Nat) (j : Int) :
    exceedsMaxf n j = true ↔ ((2 ^ 53 - 1) * 2 ^ 971 : ℚ) < n * (2 : ℚ) ^ j := by
  rw [← maxf_cast]
  unfold exceedsMaxf
  split
  · next h =>
    obtain ⟨k, rfl⟩ := Int.eq_ofNat_of_zero_le h
    simp only [decide_eq_true_eq, Nat.shiftLeft_eq, Int.toNat_natCast, zpow_natCast]
    norm_cast
  · next h =>
    obtain ⟨k, hk⟩ := Int.eq_ofNat_of_zero_le (show 0 ≤ -j by omega)
    obtain rfl : j = -(k : Int) := by omega
    simp only [decide_eq_true_eq, Nat.shiftLeft_eq, neg_neg, Int.toNat_natCast, zpow_neg, zpow_natCast]
    rw [← div_eq_mul_inv, lt_div_iff₀ (by positivity)]
    norm_cast

end Sys2Proof.Machine
end

