-- ==== Sys2Proof/Laws/Binary64.lean ====
section
/-! SUPPORT. What the fields of a binary64 pattern are and how they determine its value (30_encoding.md R30 to R32). -/

namespace Sys2Proof.Machine

theorem expField_lt (p : B64) : expField p < 2048 := (p.extractLsb 62 52).isLt

theorem fracField_lt (p : B64) : fracField p < 2 ^ 52 := (p.extractLsb 51 0).isLt

theorem finite_iff {p : B64} : finite p = true ↔ expField p ≠ 2047 := by simp [finite]

theorem iszero_iff {p : B64} : iszero p = true ↔ expField p = 0 ∧ fracField p = 0 := by simp [iszero]

theorem toNat_eq_fields (p : B64) :
    p.toNat = (signBit p).toNat * 2 ^ 63 + expField p * 2 ^ 52 + fracField p := by
  have hp := p.isLt
  have hs : (signBit p).toNat = p.toNat / 2 ^ 63 := by
    have h : signBit p = decide (p.toNat / 2 ^ 63 % 2 = 1) := by
      simp [signBit, ← BitVec.toNat_inj, Nat.shiftRight_eq_div_pow, ← Bool.beq_eq_decide_eq]
    rw [h]
    by_cases h1 : p.toNat / 2 ^ 63 % 2 = 1
    · rw [decide_eq_true h1, Bool.toNat_true]; omega
    · rw [decide_eq_false h1, Bool.toNat_false]; omega
  rw [hs, expField, fracField, BitVec.extractLsb_toNat, BitVec.extractLsb_toNat, Nat.shiftRight_eq_div_pow,
    Nat.shiftRight_eq_div_pow]
  omega

/-- A pattern is its three fields. -/
theorem eq_of_fields {p q : B64} (hs : signBit p = signBit q) (he : expField p = expField q)
    (hf : fracField p = fracField q) : p = q := by
  apply BitVec.eq_of_toNat_eq
  rw [toNat_eq_fields p, toNat_eq_fields q, hs, he, hf]

theorem ofFields_toNat (s : Bool) {e f : Nat} (he : e < 2048) (hf : f < 2 ^ 52) :
    (ofFields s e f).toNat = s.toNat * 2 ^ 63 + e * 2 ^ 52 + f := by
  have h1 : e % 2 ^ 11 = e := Nat.mod_eq_of_lt he
  have h2 : f % 2 ^ 52 = f := Nat.mod_eq_of_lt hf
  simp only [ofFields, BitVec.toNat_append, BitVec.toNat_ofBool, BitVec.toNat_ofNat, h1, h2]
  rw [← Nat.shiftLeft_add_eq_or_of_lt (by simpa using hf), ← Nat.shiftLeft_add_eq_or_of_lt (by simpa using he)]
  simp only [Nat.shiftLeft_eq]
  ring

theorem signBit_iff (p : B64) : signBit p = decide (2 ^ 63 ≤ p.toNat) := by
  have h := toNat_eq_fields p
  have he := expField_lt p
  have hf := fracField_lt p
  cases hs : signBit p <;> rw [hs] at h <;> simp at h ⊢ <;> omega

theorem expField_eq (p : B64) : expField p = p.toNat / 2 ^ 52 % 2048 := by
  rw [expField, BitVec.extractLsb_toNat, Nat.shiftRight_eq_div_pow]

theorem fracField_eq (p : B64) : fracField p = p.toNat % 2 ^ 52 := by
  rw [fracField, BitVec.extractLsb_toNat, Nat.shiftRight_eq_div_pow]; simp

/-- `ofFields` puts each field where R30 places it. -/
theorem fields_ofFields (s : Bool) {e f : Nat} (he : e < 2048) (hf : f < 2 ^ 52) :
    fields (ofFields s e f) = (s, e, f) := by
  have h := ofFields_toNat s he hf
  have hs : s.toNat < 2 := s.toNat_lt
  simp only [fields, signBit_iff, expField_eq, fracField_eq, h, Prod.mk.injEq]
  refine ⟨?_, by omega, by omega⟩
  cases s <;> simp <;> omega

theorem signBit_ofFields (s : Bool) {e f : Nat} (he : e < 2048) (hf : f < 2 ^ 52) :
    signBit (ofFields s e f) = s := congrArg Prod.fst (fields_ofFields s he hf)

theorem expField_ofFields (s : Bool) {e f : Nat} (he : e < 2048) (hf : f < 2 ^ 52) :
    expField (ofFields s e f) = e := congrArg (fun t => t.2.1) (fields_ofFields s he hf)

theorem fracField_ofFields (s : Bool) {e f : Nat} (he : e < 2048) (hf : f < 2 ^ 52) :
    fracField (ofFields s e f) = f := congrArg (fun t => t.2.2) (fields_ofFields s he hf)

@[simp] theorem signOf_true : signOf true = -1 := rfl
@[simp] theorem signOf_false : signOf false = 1 := rfl

theorem abs_signOf (s : Bool) : |signOf s| = 1 := by cases s <;> simp

/-- The value is the signed significand at its scale (40_exponent_extractor.md R52). -/
theorem val_eq_sig (p : B64) : val p = signOf (signBit p) * (((sig p).1 : ℚ) * (2 : ℚ) ^ (sig p).2) := by
  unfold val sig
  split <;> simp only [mul_assoc]

theorem abs_val (p : B64) : |val p| = ((sig p).1 : ℚ) * (2 : ℚ) ^ (sig p).2 := by
  rw [val_eq_sig, abs_mul, abs_signOf, one_mul, abs_of_nonneg (by positivity)]

theorem val_eq_abs (p : B64) : val p = signOf (signBit p) * |val p| := by
  rw [abs_val, ← val_eq_sig]

/-- The ranges of a significand and its scale (40_exponent_extractor.md R52). -/
theorem sig_range {p : B64} (h : finite p = true) :
    (sig p).1 < 2 ^ 53 ∧ -1074 ≤ (sig p).2 ∧ (sig p).2 ≤ 971 ∧
      ((sig p).1 = 0 ↔ iszero p = true) ∧ ((sig p).1 < 2 ^ 52 → (sig p).2 = -1074) := by
  have he := expField_lt p
  have hf := fracField_lt p
  rw [finite_iff] at h
  rw [iszero_iff]
  unfold sig
  split <;> dsimp only <;> refine ⟨?_, ?_, ?_, ?_, ?_⟩ <;> omega

theorem sig_pos {p : B64} (hf : finite p = true) (hz : iszero p = false) : 0 < (sig p).1 := by
  have h := (sig_range hf).2.2.2.1
  rcases Nat.eq_zero_or_pos (sig p).1 with h0 | h0
  · simp [h.1 h0] at hz
  · exact h0

theorem val_eq_zero_iff {p : B64} (hf : finite p = true) : val p = 0 ↔ iszero p = true := by
  rw [← (sig_range hf).2.2.2.1, ← abs_eq_zero, abs_val, mul_eq_zero_iff_right (by positivity), Nat.cast_eq_zero]

theorem abs_val_pos {p : B64} (hf : finite p = true) (hz : iszero p = false) : 0 < |val p| := by
  rw [abs_pos]
  intro h
  rw [(val_eq_zero_iff hf).1 h] at hz
  exact absurd hz (by simp)

/-- A pattern's significand and scale determine its fields. -/
theorem eq_of_sig {p q : B64} (hs : signBit p = signBit q) (h : sig p = sig q) : p = q := by
  have hp := fracField_lt p
  have hq := fracField_lt q
  unfold sig at h
  split at h <;> split at h <;> simp only [Prod.mk.injEq] at h <;> apply eq_of_fields hs <;> omega

end Sys2Proof.Machine
end

