-- ==== Sys2Proof/Laws/Extractor.lean ====
section
/-! SUPPORT. One lemma per shared function of 40_exponent_extractor.md, saying once what it gives on its domain. -/

namespace Sys2Proof.Machine

/-- A positive integer at a scale lies between the powers of two its bit length names. -/
theorem scaled_bounds {m : Nat} (q : Int) (h : 0 < m) :
    (2 : ℚ) ^ (q + bitlen m - 1) ≤ (m : ℚ) * 2 ^ q ∧ (m : ℚ) * 2 ^ q < 2 ^ (q + bitlen m) := by
  obtain ⟨hp, hl⟩ := two_pow_le_of_bitlen h
  have hu := lt_two_pow_bitlen m
  obtain ⟨k, hk⟩ := Nat.exists_eq_succ_of_ne_zero hp.ne'
  rw [hk] at hl hu ⊢
  have hl' : (2 : ℚ) ^ k ≤ m := by exact_mod_cast hl
  have hu' : (m : ℚ) < 2 ^ (k + 1) := by exact_mod_cast hu
  have h2 : (0 : ℚ) < 2 ^ q := by positivity
  refine ⟨?_, ?_⟩
  · rw [show q + ((k.succ : ℕ) : ℤ) - 1 = (k : ℤ) + q by push_cast; ring, zpow_add₀ (by norm_num), zpow_natCast]
    gcongr
  · rw [show q + ((k.succ : ℕ) : ℤ) = ((k + 1 : ℕ) : ℤ) + q by push_cast; ring, zpow_add₀ (by norm_num), zpow_natCast]
    gcongr

/-- The floor of a logarithm is the only exponent its two bounds allow. -/
theorem int_log_eq {b : Nat} (hb : 1 < b) {r : ℚ} {k : Int} (h1 : (b : ℚ) ^ k ≤ r) (h2 : r < (b : ℚ) ^ (k + 1)) :
    Int.log b r = k := by
  have hr : 0 < r := lt_of_lt_of_le (zpow_pos (by exact_mod_cast (by omega : 0 < b)) k) h1
  have h3 := (Int.zpow_le_iff_le_log hb hr).1 h1
  have h4 := (Int.lt_zpow_iff_log_lt hb hr).1 h2
  omega

/-- The exponent extractor (40_exponent_extractor.md R53). -/
theorem ilog2_spec {p : B64} (hf : finite p = true) (hz : iszero p = false) :
    (2 : ℚ) ^ ilog2 p ≤ |val p| ∧ |val p| < 2 ^ (ilog2 p + 1) ∧ -1074 ≤ ilog2 p ∧ ilog2 p ≤ 1023 := by
  have hM := sig_pos hf hz
  obtain ⟨h53, hq1, hq2, -, -⟩ := sig_range hf
  have hb := scaled_bounds (sig p).2 hM
  have hl : bitlen (sig p).1 ≤ 53 := bitlen_le_iff.2 h53
  have hp := (two_pow_le_of_bitlen hM).1
  rw [abs_val]
  unfold ilog2
  refine ⟨hb.1, ?_, by omega, by omega⟩
  rw [sub_add_cancel]
  exact hb.2

/-- `ilog2` is `⌊log2 |val(b)|⌋` (40_exponent_extractor.md R53). -/
theorem ilog2_eq_log {p : B64} (hf : finite p = true) (hz : iszero p = false) : ilog2 p = Int.log 2 |val p| := by
  obtain ⟨h1, h2, -, -⟩ := ilog2_spec hf hz
  exact (int_log_eq (by norm_num) (by exact_mod_cast h1) (by exact_mod_cast h2)).symm

/-- The odd part and the exponent of the lowest set bit (40_exponent_extractor.md R55). -/
theorem lsb_spec {p : B64} (hf : finite p = true) (hz : iszero p = false) :
    |val p| = ((lsb p).1 : ℚ) * 2 ^ (lsb p).2 ∧ (lsb p).1 % 2 = 1 ∧ (lsb p).1 < 2 ^ 53 ∧
      -1074 ≤ (lsb p).2 ∧ (lsb p).2 ≤ 1023 := by
  have hM := sig_pos hf hz
  obtain ⟨h53, hq1, hq2, -, -⟩ := sig_range hf
  obtain ⟨hs, ho⟩ := ctz_spec hM
  have hd : (sig p).1 >>> ctz (sig p).1 ≤ (sig p).1 := Nat.shiftRight_le _ _
  have hc : ctz (sig p).1 < 53 := by
    refine (Nat.pow_lt_pow_iff_right (a := 2) (by norm_num)).1 (lt_of_le_of_lt ?_ h53)
    conv_rhs => rw [hs]
    exact Nat.le_mul_of_pos_left _ (Nat.pos_of_ne_zero fun h0 => by rw [h0] at ho; exact absurd ho (by norm_num))
  refine ⟨?_, ho, hd.trans_lt h53, ?_, ?_⟩
  · rw [abs_val]
    unfold lsb
    dsimp only
    conv_lhs => rw [hs]
    rw [zpow_add₀ (by norm_num), zpow_natCast]
    push_cast
    ring
  · unfold lsb; dsimp only; omega
  · unfold lsb; dsimp only; omega

/-- The pattern of a power of two (40_exponent_extractor.md R54). -/
theorem pow2_spec {k : Int} (h1 : -1074 ≤ k) (h2 : k ≤ 1023) :
    finite (pow2 k) = true ∧ iszero (pow2 k) = false ∧ signBit (pow2 k) = false ∧ val (pow2 k) = 2 ^ k := by
  unfold pow2 Config.bias
  split
  · next h =>
    have he : (k + 1023).toNat < 2048 := by omega
    have hE := expField_ofFields false (f := 0) he (by norm_num)
    have hF := fracField_ofFields false (f := 0) he (by norm_num)
    have hS := signBit_ofFields false (f := 0) he (by norm_num)
    have h0 : (k + 1023).toNat ≠ 0 := by omega
    refine ⟨by rw [finite_iff, hE]; omega, by simp [iszero, hE, h0], hS, ?_⟩
    simp only [val, hE, hF, hS, if_neg h0, signOf_false, add_zero, one_mul]
    rw [show (((k + 1023).toNat : ℕ) : ℤ) - 1075 = k - 52 by omega, zpow_sub₀ (by norm_num)]
    norm_num
    field_simp
  · next h =>
    have hf : 1 <<< (k + 1074).toNat < 2 ^ 52 := by
      rw [Nat.one_shiftLeft]; exact Nat.pow_lt_pow_right (by norm_num) (by omega)
    have hE := expField_ofFields false (e := 0) (by norm_num) hf
    have hF := fracField_ofFields false (e := 0) (by norm_num) hf
    have hS := signBit_ofFields false (e := 0) (by norm_num) hf
    have hne : 1 <<< (k + 1074).toNat ≠ 0 := by rw [Nat.one_shiftLeft]; positivity
    refine ⟨by rw [finite_iff, hE]; omega, by rw [← Bool.not_eq_true, iszero_iff, hF]; exact fun h => hne h.2, hS, ?_⟩
    simp only [val, hE, hF, hS, signOf_false, one_mul, if_true]
    simp only [Nat.one_shiftLeft, Nat.cast_pow, Nat.cast_ofNat]
    rw [← zpow_natCast, ← zpow_add₀ (by norm_num)]
    congr 1
    omega

/-- What `representable` says of an odd significand (40_exponent_extractor.md R56). -/
theorem representable_odd {m : Nat} (h : m % 2 = 1) (j : Int) :
    representable m j = true ↔ -1074 ≤ j ∧ bitlen m ≤ 53 ∧ j + bitlen m ≤ 1024 := by
  have hm : m ≠ 0 := by omega
  simp [representable, hm, ctz_of_odd h, and_assoc]

theorem packOdd_spec (s : Bool) {m : Nat} {j : Int} (hm : 0 < m) (h1 : -1074 ≤ j) (h2 : bitlen m ≤ 53)
    (h3 : j + bitlen m ≤ 1024) :
    finite (packOdd s m j) = true ∧ iszero (packOdd s m j) = false ∧ signBit (packOdd s m j) = s ∧
      val (packOdd s m j) = signOf s * (m * 2 ^ j) := by
  obtain ⟨hp, hl⟩ := two_pow_le_of_bitlen hm
  have hu := lt_two_pow_bitlen m
  unfold packOdd Config.bias
  split
  · next h =>
    have hlo : 2 ^ 52 ≤ m <<< (53 - bitlen m) := by
      rw [Nat.shiftLeft_eq, show (2 : ℕ) ^ 52 = 2 ^ (bitlen m - 1) * 2 ^ (53 - bitlen m) by
        rw [← pow_add]; congr 1; omega]
      exact Nat.mul_le_mul_right _ hl
    have hhi : m <<< (53 - bitlen m) < 2 ^ 53 := by
      rw [Nat.shiftLeft_eq, show (2 : ℕ) ^ 53 = 2 ^ bitlen m * 2 ^ (53 - bitlen m) by
        rw [← pow_add]; congr 1; omega]
      exact Nat.mul_lt_mul_of_pos_right hu (by positivity)
    have he : (j + bitlen m - 1 + 1023).toNat < 2048 := by omega
    have hf : m <<< (53 - bitlen m) - 2 ^ 52 < 2 ^ 52 := by omega
    have hE := expField_ofFields s he hf
    have hF := fracField_ofFields s he hf
    have hS := signBit_ofFields s he hf
    have h0 : (j + bitlen m - 1 + 1023).toNat ≠ 0 := by omega
    refine ⟨by rw [finite_iff, hE]; omega, by rw [← Bool.not_eq_true, iszero_iff, hE]; exact fun h => h0 h.1, hS, ?_⟩
    simp only [val, hE, hF, hS, if_neg h0]
    rw [Nat.add_sub_cancel' hlo, Nat.shiftLeft_eq, mul_assoc,
      show (((j + bitlen m - 1 + 1023).toNat : ℕ) : ℤ) - 1075 = j - ((53 - bitlen m : ℕ) : ℤ) by omega,
      zpow_sub₀ (by norm_num), zpow_natCast]
    push_cast
    field_simp
  · next h =>
    have hf : m <<< (j + 1074).toNat < 2 ^ 52 := by
      rw [Nat.shiftLeft_eq]
      calc m * 2 ^ (j + 1074).toNat < 2 ^ bitlen m * 2 ^ (j + 1074).toNat :=
            Nat.mul_lt_mul_of_pos_right hu (by positivity)
        _ = 2 ^ (bitlen m + (j + 1074).toNat) := (pow_add _ _ _).symm
        _ ≤ 2 ^ 52 := Nat.pow_le_pow_right (by norm_num) (by omega)
    have hE := expField_ofFields s (e := 0) (by norm_num) hf
    have hF := fracField_ofFields s (e := 0) (by norm_num) hf
    have hS := signBit_ofFields s (e := 0) (by norm_num) hf
    have hne : m <<< (j + 1074).toNat ≠ 0 := by rw [Nat.shiftLeft_eq]; positivity
    refine ⟨by rw [finite_iff, hE]; omega, by rw [← Bool.not_eq_true, iszero_iff, hF]; exact fun h => hne h.2, hS, ?_⟩
    simp only [val, hE, hF, hS, if_true, mul_assoc]
    rw [Nat.shiftLeft_eq]
    rw [Nat.cast_mul, Nat.cast_pow, Nat.cast_ofNat, mul_assoc, ← zpow_natCast, ← zpow_add₀ (by norm_num),
      show (((j + 1074).toNat : ℕ) : ℤ) + -1074 = j by omega]

/-- Packing a representable value loses nothing (40_exponent_extractor.md R57). -/
theorem pack_spec (s : Bool) {n : Nat} {j : Int} (hn : 0 < n) (h : representable n j = true) :
    finite (pack s n j) = true ∧ iszero (pack s n j) = false ∧ signBit (pack s n j) = s ∧
      val (pack s n j) = signOf s * (n * 2 ^ j) := by
  obtain ⟨hs, ho⟩ := ctz_spec hn
  have hpos : 0 < n >>> ctz n := Nat.pos_of_ne_zero fun h0 => by rw [h0] at ho; exact absurd ho (by norm_num)
  simp only [representable, hn.ne', if_false, Bool.and_eq_true, decide_eq_true_eq] at h
  obtain ⟨hf, hz, hb, hv⟩ := packOdd_spec s hpos h.1.1 h.1.2 h.2
  simp only [pack, hn.ne', if_false]
  refine ⟨hf, hz, hb, hv.trans ?_⟩
  conv_rhs => rw [hs]
  rw [zpow_add₀ (by norm_num), zpow_natCast]
  push_cast
  ring

/-- A packed zero is `+0`, whatever the sign asked for (40_exponent_extractor.md R57). -/
@[simp] theorem pack_zero (s : Bool) (j : Int) : pack s 0 j = 0 := rfl

/-- The decimal exponent of a power of two (40_exponent_extractor.md R58). -/
theorem ilog10p2_spec (j : Int) : (10 : ℚ) ^ ilog10p2 j ≤ 2 ^ j ∧ (2 : ℚ) ^ j < 10 ^ (ilog10p2 j + 1) := by
  unfold ilog10p2
  split
  · next h =>
    obtain ⟨k, rfl⟩ := Int.eq_ofNat_of_zero_le h
    obtain ⟨hp, hl, hu⟩ := decimalDigits_spec (n := 1 <<< k) (by rw [Nat.one_shiftLeft]; positivity)
    simp only [Int.toNat_natCast] at *
    rw [Nat.one_shiftLeft] at *
    obtain ⟨d, hd⟩ := Nat.exists_eq_succ_of_ne_zero hp.ne'
    rw [hd] at hl hu ⊢
    rw [show ((d.succ : ℕ) : ℤ) - 1 = (d : ℕ) by push_cast; ring,
      show ((d : ℕ) : ℤ) + 1 = ((d + 1 : ℕ) : ℤ) by push_cast; ring]
    simp only [zpow_natCast]
    exact ⟨by exact_mod_cast hl, by exact_mod_cast hu⟩
  · next h =>
    obtain ⟨k, hk⟩ := Int.eq_ofNat_of_zero_le (show 0 ≤ -j by omega)
    obtain rfl : j = -(k : Int) := by omega
    have hk0 : 0 < k := by omega
    obtain ⟨hp, hl, hu⟩ := decimalDigits_spec (n := 1 <<< k) (by rw [Nat.one_shiftLeft]; positivity)
    simp only [neg_neg, Int.toNat_natCast] at *
    rw [Nat.one_shiftLeft] at *
    obtain ⟨d, hd⟩ := Nat.exists_eq_succ_of_ne_zero hp.ne'
    rw [hd] at hl hu ⊢
    have hne : 10 ^ d ≠ 2 ^ k := by
      intro he
      rcases Nat.eq_zero_or_pos d with rfl | hd0
      · have := Nat.one_lt_two_pow hk0.ne'
        simp at he; omega
      · have h5 : 5 ∣ 2 ^ k := he ▸ Dvd.dvd.trans (by norm_num) (dvd_pow_self 10 hd0.ne')
        exact absurd (Nat.Prime.dvd_of_dvd_pow (by norm_num) h5) (by norm_num)
    have hl' : 10 ^ d < 2 ^ k := lt_of_le_of_ne (by simpa using hl) hne
    rw [show -((d.succ : ℕ) : ℤ) + 1 = -((d : ℕ) : ℤ) by push_cast; ring]
    simp only [zpow_neg, zpow_natCast]
    refine ⟨?_, ?_⟩
    · exact inv_anti₀ (by positivity) (by exact_mod_cast hu.le)
    · exact inv_strictAnti₀ (by positivity) (by exact_mod_cast hl')

/-- `ilog10p2(j)` is `⌊log10(2^j)⌋` (40_exponent_extractor.md R58). -/
theorem ilog10p2_eq_log (j : Int) : ilog10p2 j = Int.log 10 ((2 : ℚ) ^ j) := by
  obtain ⟨h1, h2⟩ := ilog10p2_spec j
  exact (int_log_eq (by norm_num) (by exact_mod_cast h1) (by exact_mod_cast h2)).symm

end Sys2Proof.Machine
end

