-- ==== Sys2Proof/Laws/Operations.lean ====
section
/-! SUPPORT. One lemma per step of the three operations, in exact rationals: the checks, the encoder's cell, the
rounder's quotient and its rounding. -/

namespace Sys2Proof.Machine

theorem signBit_true_iff {p : B64} (hf : finite p = true) (hz : iszero p = false) :
    signBit p = true ↔ val p < 0 := by
  have h := abs_val_pos hf hz
  rw [val_eq_abs p]
  generalize |val p| = r at h
  cases signBit p <;> simp <;> linarith

/-- The uncertainty check passes exactly the positive finite values (41_encoder.md R66). -/
theorem uncertaintyInvalid_false_iff (b : B64) :
    uncertaintyInvalid b = false ↔ finite b = true ∧ 0 < val b := by
  simp only [uncertaintyInvalid, neg, Bool.or_eq_false_iff, Bool.not_eq_false', and_assoc]
  refine and_congr_right fun hf => ?_
  constructor
  · rintro ⟨hz, hs⟩
    rw [val_eq_abs, hs, signOf_false, one_mul]
    exact abs_val_pos hf hz
  · intro h
    have hz : iszero b = false := by
      rw [← Bool.not_eq_true, ← val_eq_zero_iff hf]; exact h.ne'
    refine ⟨hz, ?_⟩
    rw [← Bool.not_eq_true, signBit_true_iff hf hz]
    exact h.le.not_gt

/-- The domain check of `DEC` and `DRND` passes exactly the finite non-zero patterns (42_decoder.md R81). -/
theorem significantInvalid_false_iff (a : B64) :
    significantInvalid a = false ↔ finite a = true ∧ iszero a = false := by
  simp [significantInvalid]

/-- The encoder's cell number is the floor of `|x| / δ` (41_encoder.md R70). -/
theorem encCell_floor {a : B64} (hf : finite a = true) (e : Int) :
    (encCell a e : ℤ) = ⌊|val a| / (2 : ℚ) ^ e⌋ := by
  unfold encCell
  split
  · next hz =>
    rw [(val_eq_zero_iff hf).2 hz]; simp
  · rw [abs_val, mul_div_assoc, ← zpow_sub₀ (by norm_num)]
    split
    · next h =>
      obtain ⟨k, hk⟩ := Int.eq_ofNat_of_zero_le (show 0 ≤ (sig a).2 - e by omega)
      rw [hk, Int.toNat_natCast, Nat.shiftLeft_eq, zpow_natCast]
      exact_mod_cast (Int.floor_natCast ((sig a).1 * 2 ^ k)).symm
    · next h =>
      obtain ⟨k, hk⟩ := Int.eq_ofNat_of_zero_le (show 0 ≤ e - (sig a).2 by omega)
      rw [hk, Int.toNat_natCast, Nat.shiftRight_eq_div_pow, show (sig a).2 - e = -(k : ℤ) by omega, zpow_neg,
        zpow_natCast, ← div_eq_mul_inv]
      exact_mod_cast (Rat.floor_natCast_div_natCast (sig a).1 (2 ^ k)).symm

/-- The rounder's integer is the floor of the quotient plus a half (43_decimal_rounder.md R101). -/
theorem roundQuotient_floor (p : Config.DrndTiePolicy) (n : Nat) {d : Nat} (hd : 0 < d) :
    (roundQuotient p n d : ℤ) = ⌊(n : ℚ) / d + 1 / 2⌋ := by
  cases p
  have hd' : (d : ℚ) ≠ 0 := by exact_mod_cast hd.ne'
  have h : (n : ℚ) / d + 1 / 2 = ((2 * n + d : ℕ) : ℚ) / ((2 * d : ℕ) : ℚ) := by
    push_cast; field_simp
  rw [h, Rat.floor_natCast_div_natCast]
  rfl

theorem ilog10p2_nonneg {j : Int} (h : 0 ≤ j) : 0 ≤ ilog10p2 j := by
  have h1 := (ilog10p2_spec j).2
  have h2 : (1 : ℚ) ≤ 2 ^ j := one_le_zpow₀ (by norm_num) h
  have h3 : (10 : ℚ) ^ (0 : ℤ) < 10 ^ (ilog10p2 j + 1) := by simpa using h2.trans_lt h1
  have := (zpow_lt_zpow_iff_right₀ (by norm_num)).1 h3
  omega

theorem ilog10p2_neg {j : Int} (h : j < 0) : ilog10p2 j < 0 := by
  have h1 := (ilog10p2_spec j).1
  have h2 : (2 : ℚ) ^ j < 1 := by
    simpa using (zpow_lt_zpow_iff_right₀ (by norm_num : (1 : ℚ) < 2)).2 h
  have h3 : (10 : ℚ) ^ ilog10p2 j < 10 ^ (0 : ℤ) := by simpa using h1.trans_lt h2
  exact (zpow_lt_zpow_iff_right₀ (by norm_num)).1 h3

/-- The fraction the rounder forms is the exact quotient `|y| / γ` (43_decimal_rounder.md R100). -/
theorem drnd_quotient (m : Nat) (j : Int) :
    0 < drndDenominator j (ilog10p2 j) ∧
      (drndNumerator m j (ilog10p2 j) : ℚ) / drndDenominator j (ilog10p2 j) = m * 2 ^ j / 10 ^ ilog10p2 j := by
  unfold drndDenominator drndNumerator
  split
  · next h =>
    obtain ⟨g, hg⟩ := Int.eq_ofNat_of_zero_le (ilog10p2_nonneg h)
    obtain ⟨k, rfl⟩ := Int.eq_ofNat_of_zero_le h
    rw [hg]
    refine ⟨by simp, ?_⟩
    simp only [Int.toNat_natCast, Nat.shiftLeft_eq, zpow_natCast]
    push_cast
    ring
  · next h =>
    obtain ⟨g, hg⟩ := Int.eq_ofNat_of_zero_le (show 0 ≤ -ilog10p2 j by have := ilog10p2_neg (not_le.1 h); omega)
    obtain ⟨k, hk⟩ := Int.eq_ofNat_of_zero_le (show 0 ≤ -j by omega)
    obtain rfl : j = -(k : Int) := by omega
    rw [hg, show ilog10p2 (-(k : ℤ)) = -(g : ℤ) by omega]
    simp only [neg_neg, Int.toNat_natCast, Nat.one_shiftLeft, zpow_neg, zpow_natCast]
    refine ⟨by positivity, ?_⟩
    push_cast
    field_simp

end Sys2Proof.Machine
end

