-- ==== Sys2Proof/Laws/PerInstr.lean ====
section
/-! SUPPORT. Facts said of every operation as syntax, one lemma per constructor. -/

namespace Sys2Proof.Laws.OpField

/-- The operation's code stands in the low two bits of its encoding, and it is the reserved code exactly when the
operation map does not name the operation (30_encoding.md R34, R35). -/
def Statement (i : Instr) : Prop :=
  opField (encode i) = opCodeOf i ∧ (opCodeOf i = 0b11#2 ↔ i.wellFormed = false)

theorem opField_packCmd (op : OpCode) (a b : B64) : opField (packCmd op a b) = op := by
  apply BitVec.eq_of_getLsbD_eq
  intro k hk
  simp only [opField, packCmd, BitVec.getLsbD_extractLsb', BitVec.getLsbD_append]
  simp [hk]

theorem enc (x eps : B64) : Statement (.enc x eps) := ⟨opField_packCmd _ _ _, by simp [opCodeOf, Instr.wellFormed]⟩
theorem dec (y unused : B64) : Statement (.dec y unused) := ⟨opField_packCmd _ _ _, by simp [opCodeOf, Instr.wellFormed]⟩
theorem drnd (y d : B64) : Statement (.drnd y d) := ⟨opField_packCmd _ _ _, by simp [opCodeOf, Instr.wellFormed]⟩
theorem reserved (a b : B64) : Statement (.reserved a b) := ⟨opField_packCmd _ _ _, by simp [opCodeOf, Instr.wellFormed]⟩

end Sys2Proof.Laws.OpField
end

