-- ==== Sys2Proof/Laws/State.lean ====
section
/-! SUPPORT. The small lemmas of the port record: one per field per update, and one that says what a step does. -/

namespace Sys2Proof.Machine

@[simp] theorem Response.status_returned (x y z : B64) : (Response.returned x y z).status = statusOK := rfl
@[simp] theorem Response.status_raised (k : ErrorKind) : (Response.raised k).status = codeOf k := rfl
@[simp] theorem Response.r0_returned (x y z : B64) : (Response.returned x y z).r0 = x := rfl
@[simp] theorem Response.r0_raised (k : ErrorKind) : (Response.raised k).r0 = 0 := rfl
@[simp] theorem Response.r1_returned (x y z : B64) : (Response.returned x y z).r1 = y := rfl
@[simp] theorem Response.r1_raised (k : ErrorKind) : (Response.raised k).r1 = 0 := rfl
@[simp] theorem Response.r2_returned (x y z : B64) : (Response.returned x y z).r2 = z := rfl
@[simp] theorem Response.r2_raised (k : ErrorKind) : (Response.raised k).r2 = 0 := rfl

@[simp] theorem State.answer_op (s : State) (r : Response) : (s.answer r).op = s.op := rfl
@[simp] theorem State.answer_a (s : State) (r : Response) : (s.answer r).a = s.a := rfl
@[simp] theorem State.answer_b (s : State) (r : Response) : (s.answer r).b = s.b := rfl
@[simp] theorem State.answer_status (s : State) (r : Response) : (s.answer r).status = r.status := rfl
@[simp] theorem State.answer_r0 (s : State) (r : Response) : (s.answer r).r0 = r.r0 := rfl
@[simp] theorem State.answer_r1 (s : State) (r : Response) : (s.answer r).r1 = r.r1 := rfl
@[simp] theorem State.answer_r2 (s : State) (r : Response) : (s.answer r).r2 = r.r2 := rfl
@[simp] theorem State.answer_presented (s : State) (r : Response) : (s.answer r).presented = s.presented := rfl
@[simp] theorem State.answer_outputs (s : State) (r : Response) : (s.answer r).outputs = (r.status, r.r0, r.r1, r.r2) := rfl
@[simp] theorem State.answer_answer (s : State) (r q : Response) : (s.answer r).answer q = s.answer q := rfl

@[simp] theorem State.drive_op (s : State) (w : Cmd) : (s.drive w).op = opField w := rfl
@[simp] theorem State.drive_a (s : State) (w : Cmd) : (s.drive w).a = aField w := rfl
@[simp] theorem State.drive_b (s : State) (w : Cmd) : (s.drive w).b = bField w := rfl
@[simp] theorem State.drive_status (s : State) (w : Cmd) : (s.drive w).status = s.status := rfl
@[simp] theorem State.drive_r0 (s : State) (w : Cmd) : (s.drive w).r0 = s.r0 := rfl
@[simp] theorem State.drive_r1 (s : State) (w : Cmd) : (s.drive w).r1 = s.r1 := rfl
@[simp] theorem State.drive_r2 (s : State) (w : Cmd) : (s.drive w).r2 = s.r2 := rfl

/-- The response an operation ends with, as a function of the operation alone (10_state.md R10). -/
def responseOf : Instr → Response
  | .enc x eps => enc x eps
  | .dec y _ => dec y
  | .drnd y d => drnd y d
  | .reserved _ _ => reservedAnswer

/-- All that `exec` does, for every operation: a next state whose output ports hold the response. -/
theorem exec_eq (i : Instr) (s : State) : exec i s = .next (s.answer (responseOf i)) := by
  cases i <;> rfl

/-- All that a step does: it answers the operation on the input ports. -/
theorem step_eq (s : State) : step s = .next (s.answer (responseOf (decode s.presented))) :=
  exec_eq _ s

end Sys2Proof.Machine
end

