-- ==== Sys2Proof/Tests/Slice0.lean ====
section
/-! SUPPORT. Tests on words and vectors of the spec, and for every statement with hypotheses a concrete state and
operands that meet them together. Expected results are the spec's (95_test_vectors.md; the row is named at each test). -/

namespace Sys2Proof.Tests
open Sys2Proof Sys2Proof.Machine

-- The kernel evaluates each test by itself, so one thread for every test would only wait for the others.
set_option Elab.async false

/-- Input ports driven, and every output port at all ones, so that a result port left unwritten is seen. -/
def ports (op : OpCode) (a b : B64) : State :=
  { op := op, a := a, b := b, status := 7, r0 := BitVec.allOnes 64, r1 := BitVec.allOnes 64, r2 := BitVec.allOnes 64 }

/-- The output ports after a step, if there is a next state. -/
def outputsAfter : Host.Outcome State Fault Refusal → Option (StatusCode × B64 × B64 × B64)
  | .next t => some t.outputs
  | .fault _ => none
  | .refused _ => none

/-- The state after `ENC` from reset. -/
def encAfter (a b : B64) : State := State.reset.answer (enc a b)

/-- The state after `DEC` from reset. -/
def decAfter (a : B64) : State := State.reset.answer (dec a)

/-- The state after `DRND` from reset. -/
def drndAfter (a b : B64) : State := State.reset.answer (drnd a b)

-- ## Well-formedness

/-- The one check refuses the one ill-formed term. -/
theorem test_reserved_is_ill_formed : (Instr.reserved 0 0).wellFormed = false := by decide

theorem test_operations_are_well_formed :
    (Instr.enc 0 0).wellFormed = true ∧ (Instr.dec 0 0).wellFormed = true ∧ (Instr.drnd 0 0).wellFormed = true := by
  decide

-- ## Decoding: words written out from 30_encoding.md R33 to R35, operands from 95_test_vectors.md

/-- `op = 00`, then `a = 0x3FE4F0307F23CC8E`, then `b = 0x3FA999999999999A` (vector V1). -/
theorem test_decode_enc :
    decodeTableWord 136
      0b0011111110101001100110011001100110011001100110011001100110011010001111111110010011110000001100000111111100100011110011001000111000
      = some (.enc 0x3FE4F0307F23CC8E#64 0x3FA999999999999A#64) := by decide +kernel

/-- `op = 01`, `a = 0x3FE4800000000000`, `b = 0x7FF8000000000000` (row DV28). -/
theorem test_decode_dec :
    decodeTableWord 136 (0b01 + 0x3FE4800000000000 * 2 ^ 2 + 0x7FF8000000000000 * 2 ^ 66)
      = some (.dec 0x3FE4800000000000#64 0x7FF8000000000000#64) := by decide +kernel

/-- `op = 10`, `a = 0x3FE4800000000000`, `b = 0x3FA0000000000000` (row Z1). -/
theorem test_decode_drnd :
    decodeTableWord 136 (0b10 + 0x3FE4800000000000 * 2 ^ 2 + 0x3FA0000000000000 * 2 ^ 66)
      = some (.drnd 0x3FE4800000000000#64 0x3FA0000000000000#64) := by decide +kernel

/-- `op = 11`, `a = 0x7FF8000000000000`, `b = 0xFFFFFFFFFFFFFFFF` (section 6, last row). -/
theorem test_decode_reserved :
    decodeTableWord 136 (0b11 + 0x7FF8000000000000 * 2 ^ 2 + 0xFFFFFFFFFFFFFFFF * 2 ^ 66)
      = some (.reserved 0x7FF8000000000000#64 0xFFFFFFFFFFFFFFFF#64) := by decide +kernel

/-- The table's own two bits alone, operands zero. -/
theorem test_decode_op_bits :
    decodeTableWord 8 0b00 = some (.enc 0 0) ∧ decodeTableWord 8 0b01 = some (.dec 0 0) ∧
      decodeTableWord 8 0b10 = some (.drnd 0 0) ∧ decodeTableWord 8 0b11 = some (.reserved 0 0) := by decide +kernel

theorem test_longer_word_rejected : decodeTableWord 136 (2 ^ 130) = none := by decide +kernel

/-- The encoder writes `op` lowest, then `a`, then `b`, for distinct operand words. -/
theorem test_encode_places_fields :
    (encode (.drnd 0x0123456789ABCDEF#64 0xFEDCBA9876543210#64)).toNat =
      0b10 + 0x0123456789ABCDEF * 2 ^ 2 + 0xFEDCBA9876543210 * 2 ^ 66 := by decide +kernel

-- ## Steps

/-- Row E17: 53 significant bits, the last success before row E18. -/
theorem test_enc_all_bits_used :
    outputsAfter (step (ports 0b00#2 0x3FF0000000000000#64 0x3CC0000000000000#64)) =
      some (0, 0x3FF0000000000001#64, 0, 0) := by decide +kernel

/-- Row E41: range is tested before representability. -/
theorem test_enc_range_first :
    outputsAfter (step (ports 0b00#2 0x7FEFFFFFFFFFFFFF#64 0x0000000000000001#64)) = some (4, 0, 0, 0) := by
  decide +kernel

/-- Row DV18: a negative operand swaps the ends, and the zero end is `+0`. -/
theorem test_dec_negative_subnormal :
    outputsAfter (step (ports 0b01#2 0x8000000000000001#64 0xFFFFFFFFFFFFFFFF#64)) =
      some (0, 0x0000000000000002#64, 0x8000000000000002#64, 0) := by decide +kernel

/-- Row DV12: the outer end would be `2^1024`. -/
theorem test_dec_range :
    outputsAfter (step (ports 0b01#2 0x7FEFFFFFFFFFFFFE#64 0)) = some (4, 0, 0, 0) := by decide +kernel

/-- Row Z6: a negative tie goes away from zero. -/
theorem test_drnd_negative_tie :
    outputsAfter (step (ports 0b10#2 0xBFF4000000000000#64 0x3FE0000000000000#64)) =
      some (0, 0xFFFFFFFFFFFFFFF3#64, 0xFFFFFFFFFFFFFFFF#64, 0) := by decide +kernel

/-- Row Z42: range is tested before the `δ` check. -/
theorem test_drnd_range_first :
    outputsAfter (step (ports 0b10#2 0xFFE0000000000000#64 0)) = some (4, 0, 0, 0) := by decide +kernel

/-- Section 6, last row. -/
theorem test_reserved_answers :
    outputsAfter (step (ports 0b11#2 0x7FF8000000000000#64 0xFFFFFFFFFFFFFFFF#64)) = some (7, 0, 0, 0) := by
  decide +kernel

-- ## Witnesses: each meets the hypotheses of the statement it is named after, clause by clause

theorem witness_OperationSelectChoosesOperation :
    (ports 0b00#2 1 2).op = 0b00#2 ∧ (ports 0b01#2 1 2).op = 0b01#2 ∧ (ports 0b10#2 1 2).op = 0b10#2 ∧
      (ports 0b11#2 1 2).op = 0b11#2 := by decide

theorem witness_EncodeDecodeRoundTrip :
    encode (.enc 1 2) = encode (decode (encode (.enc 1 2))) ∧ encode (.enc 1 2) ≠ encode (.enc 2 1) := by decide +kernel

/-- Both clauses where they meet. -/
theorem witness_OnlyOneLengthDecodes : (2 ^ 130 - 1 : ℕ) < 2 ^ 130 ∧ (2 ^ 130 : ℕ) ≤ 2 ^ 130 := by decide +kernel

theorem witness_StepRunsPresentedOperation : decode (ports 0b10#2 5 6).presented = .drnd 5 6 := by decide +kernel

theorem witness_FetchWordIsRunByNextStep :
    decodeTableWord 8 0b01 = some (.dec 0 0) ∧
      decodeTableWord 136 (2 ^ 130 - 1) = some (.reserved (BitVec.allOnes 64) (BitVec.allOnes 64)) := by decide +kernel

theorem witness_OperationLeavesInputPorts :
    exec (.dec 1 2) (ports 0b00#2 3 4) = .next ((ports 0b00#2 3 4).answer (dec 1)) := rfl

/-- Two states that agree on the input ports only. -/
theorem witness_EqualInputsGiveEqualOutputs :
    (ports 0 0 0).op = State.reset.op ∧ (ports 0 0 0).a = State.reset.a ∧ (ports 0 0 0).b = State.reset.b ∧
      ports 0 0 0 ≠ State.reset := by decide

/-- One failure of each operation. -/
theorem witness_FailureDoesNothingElse :
    (exec (.enc 0 0) State.reset = .next (encAfter 0 0) ∧ (encAfter 0 0).status ≠ 0) ∧
    (exec (.dec 0 0) State.reset = .next (decAfter 0) ∧ (decAfter 0).status ≠ 0) ∧
    (exec (.drnd 0 0) State.reset = .next (drndAfter 0 0) ∧ (drndAfter 0 0).status ≠ 0) ∧
    (exec (.reserved 0 0) State.reset = .next (State.reset.answer reservedAnswer) ∧
      (State.reset.answer reservedAnswer).status ≠ 0) :=
  ⟨⟨rfl, by decide +kernel⟩, ⟨rfl, by decide +kernel⟩, ⟨rfl, by decide +kernel⟩, rfl, by decide +kernel⟩

theorem witness_ReservedCodeAnswersIllegalOperation :
    (ports 0b11#2 1 2).op = 0b11#2 ∧ (ports 0b10#2 1 2).op ≠ 0b11#2 := by decide

theorem witness_StatusCodesByOperation :
    exec (.enc 1 2) State.reset = .next (encAfter 1 2) ∧ exec (.dec 1 2) State.reset = .next (decAfter 1) ∧
      exec (.drnd 1 2) State.reset = .next (drndAfter 1 2) := ⟨rfl, rfl, rfl⟩

/-- Two different patterns of one value, and the largest pattern with itself. -/
theorem witness_ValueOneToOneExceptZeros :
    (finite 0x0000000000000000#64 = true ∧ finite 0x8000000000000000#64 = true ∧
      val 0x0000000000000000#64 = val 0x8000000000000000#64) ∧
    (finite 0x7FEFFFFFFFFFFFFF#64 = true ∧ val 0x7FEFFFFFFFFFFFFF#64 = val 0x7FEFFFFFFFFFFFFF#64) := by decide +kernel

/-- The least and the greatest odd significand, at the ends of the scale and outside. -/
theorem witness_RepresentableIffSomePattern :
    (1 % 2 = 1 ∧ representable 1 (-1074) = true ∧ representable 1 (-1075) = false) ∧
    ((2 ^ 53 - 1) % 2 = 1 ∧ representable (2 ^ 53 - 1) 971 = true ∧ representable (2 ^ 53 - 1) 972 = false) ∧
    ((2 ^ 53 + 1) % 2 = 1 ∧ representable (2 ^ 53 + 1) 0 = false) := by decide +kernel

theorem witness_DecimalExponentMultiplier :
    ((-1100 : ℤ) ≤ -1100 ∧ (-1100 : ℤ) < 1100) ∧ ((-1100 : ℤ) ≤ 1099 ∧ (1099 : ℤ) < 1100) ∧
      ((-877 : ℤ) = 681 ∨ (-877 : ℤ) = -681 ∨ (-877 : ℤ) = 877 ∨ (-877 : ℤ) = -877) := by decide

/-- The least magnitude (`δ = 2^−1073`), `1` (`δ = 2`), `2` (`δ = 4`) and the greatest magnitude. -/
theorem witness_EveryPatternCarriesOneDelta :
    (finite 0x0000000000000001#64 = true ∧ iszero 0x0000000000000001#64 = false) ∧
    (finite 0x3FF0000000000000#64 = true ∧ iszero 0x3FF0000000000000#64 = false) ∧
    (finite 0xC000000000000000#64 = true ∧ iszero 0xC000000000000000#64 = false) ∧
    (finite 0x7FEFFFFFFFFFFFFF#64 = true ∧ iszero 0x7FEFFFFFFFFFFFFF#64 = false) := by decide +kernel

/-- The three edges of the domain of R72: `ilog2(b) = −1073` with `x = 0` (row E25), `ilog2(a) − ilog2(b) = 51` (row
E17), and `x = MAXF` with the least uncertainty that succeeds (row E35). -/
theorem witness_EncodeReturnsSourceFormula :
    (finite 0x0000000000000000#64 = true ∧ finite 0x0000000000000002#64 = true ∧ 0 < val 0x0000000000000002#64 ∧
      -1073 ≤ Int.log 2 (val 0x0000000000000002#64) ∧
      (val 0x0000000000000000#64 ≠ 0 →
        Int.log 2 |val 0x0000000000000000#64| - Int.log 2 (val 0x0000000000000002#64) ≤ 51)) ∧
    (finite 0x3FF0000000000000#64 = true ∧ finite 0x3CC0000000000000#64 = true ∧ 0 < val 0x3CC0000000000000#64 ∧
      -1073 ≤ Int.log 2 (val 0x3CC0000000000000#64) ∧
      (val 0x3FF0000000000000#64 ≠ 0 →
        Int.log 2 |val 0x3FF0000000000000#64| - Int.log 2 (val 0x3CC0000000000000#64) ≤ 51)) ∧
    (finite 0x7FEFFFFFFFFFFFFF#64 = true ∧ finite 0x7CB0000000000000#64 = true ∧ 0 < val 0x7CB0000000000000#64 ∧
      -1073 ≤ Int.log 2 (val 0x7CB0000000000000#64) ∧
      (val 0x7FEFFFFFFFFFFFFF#64 ≠ 0 →
        Int.log 2 |val 0x7FEFFFFFFFFFFFFF#64| - Int.log 2 (val 0x7CB0000000000000#64) ≤ 51)) := by decide +kernel

/-- A successful `ENC` (vector V1). -/
theorem encOk : exec (.enc 0x3FE4F0307F23CC8E#64 0x3FA999999999999A#64) State.reset =
      .next (encAfter 0x3FE4F0307F23CC8E#64 0x3FA999999999999A#64) ∧
    (encAfter 0x3FE4F0307F23CC8E#64 0x3FA999999999999A#64).status = 0 := ⟨rfl, by decide +kernel⟩

/-- A successful `ENC` with results at the greatest magnitude (row E36). -/
theorem encOkGreatest : exec (.enc 0xFFEFFFFFFFFFFFFF#64 0x7CB0000000000000#64) State.reset =
      .next (encAfter 0xFFEFFFFFFFFFFFFF#64 0x7CB0000000000000#64) ∧
    (encAfter 0xFFEFFFFFFFFFFFFF#64 0x7CB0000000000000#64).status = 0 := ⟨rfl, by decide +kernel⟩

theorem witness_EncodeOkIsExact : type_of% encOk ∧ type_of% encOkGreatest := ⟨encOk, encOkGreatest⟩

/-- Each status is taken: rows E47, E43, E39, E42 and E18. -/
theorem witness_EncodeStatusByExactValue :
    (exec (.enc 0x3FF0000000000000#64 0x8000000000000000#64) State.reset =
      .next (encAfter 0x3FF0000000000000#64 0x8000000000000000#64) ∧
      (encAfter 0x3FF0000000000000#64 0x8000000000000000#64).status = 1) ∧
    (encAfter 0x7FF0000000000000#64 0x3FF0000000000000#64).status = 2 ∧
    (encAfter 0x7FEFFFFFFFFFFFFF#64 0x7CA0000000000000#64).status = 4 ∧
    (encAfter 0x7FEFFFFFFFFFFFFE#64 0x7CA0000000000000#64).status = 5 ∧
    (encAfter 0x3FF0000000000000#64 0x3CB0000000000000#64).status = 5 :=
  ⟨⟨rfl, by decide +kernel⟩, by decide +kernel, by decide +kernel, by decide +kernel, by decide +kernel⟩

/-- Row E7 (`k = 20`, negative), the least tie `k = 1` (row E33), and `x = −0` (row E3). -/
theorem witness_EncodeTieGoesAwayFromZero :
    (exec (.enc 0xBFE4000000000000#64 0x3FA999999999999A#64) State.reset =
        .next (encAfter 0xBFE4000000000000#64 0x3FA999999999999A#64) ∧
      (encAfter 0xBFE4000000000000#64 0x3FA999999999999A#64).status = 0 ∧ 1 ≤ 20 ∧
      |val 0xBFE4000000000000#64| = (20 : ℕ) * deltaOf (val 0x3FA999999999999A#64)) ∧
    (exec (.enc 0x7FE0000000000000#64 0x7FE0000000000000#64) State.reset =
        .next (encAfter 0x7FE0000000000000#64 0x7FE0000000000000#64) ∧
      (encAfter 0x7FE0000000000000#64 0x7FE0000000000000#64).status = 0 ∧
      |val 0x7FE0000000000000#64| = (1 : ℕ) * deltaOf (val 0x7FE0000000000000#64)) ∧
    (exec (.enc 0x8000000000000000#64 0x3FA999999999999A#64) State.reset =
        .next (encAfter 0x8000000000000000#64 0x3FA999999999999A#64) ∧
      (encAfter 0x8000000000000000#64 0x3FA999999999999A#64).status = 0 ∧ val 0x8000000000000000#64 = 0) :=
  ⟨⟨rfl, by decide +kernel, by decide, by decide +kernel⟩, ⟨rfl, by decide +kernel, by decide +kernel⟩,
    rfl, by decide +kernel, by decide +kernel⟩

/-- The least and the greatest uncertainty of the second clause (rows E25, E32); a success and a failure of the third
(vector V1 and row E1, row E18). -/
theorem witness_EncodeReflectsSign :
    (finite 0x0000000000000002#64 = true ∧ 0 < val 0x0000000000000002#64 ∧
      -1073 ≤ Int.log 2 (val 0x0000000000000002#64)) ∧
    (finite 0x7FEFFFFFFFFFFFFF#64 = true ∧ 0 < val 0x7FEFFFFFFFFFFFFF#64 ∧
      -1073 ≤ Int.log 2 (val 0x7FEFFFFFFFFFFFFF#64)) ∧
    (finite 0x3FE4F0307F23CC8E#64 = true ∧ iszero 0x3FE4F0307F23CC8E#64 = false ∧ type_of% encOk ∧
      exec (.enc (0x3FE4F0307F23CC8E#64 ^^^ 0x8000000000000000#64) 0x3FA999999999999A#64) State.reset =
        .next (encAfter (0x3FE4F0307F23CC8E#64 ^^^ 0x8000000000000000#64) 0x3FA999999999999A#64)) ∧
    (finite 0x3FF0000000000000#64 = true ∧ iszero 0x3FF0000000000000#64 = false ∧
      exec (.enc 0x3FF0000000000000#64 0x3CB0000000000000#64) State.reset =
        .next (encAfter 0x3FF0000000000000#64 0x3CB0000000000000#64) ∧
      exec (.enc (0x3FF0000000000000#64 ^^^ 0x8000000000000000#64) 0x3CB0000000000000#64) State.reset =
        .next (encAfter (0x3FF0000000000000#64 ^^^ 0x8000000000000000#64) 0x3CB0000000000000#64)) :=
  ⟨by decide +kernel, by decide +kernel, ⟨by decide +kernel, by decide +kernel, encOk, rfl⟩,
    by decide +kernel, by decide +kernel, rfl, rfl⟩

/-- Vector V1 and its decoding (vector V2). -/
theorem witness_EncodePostconditions :
    type_of% encOk ∧
    exec (.dec (encAfter 0x3FE4F0307F23CC8E#64 0x3FA999999999999A#64).r0 5)
        (encAfter 0x3FE4F0307F23CC8E#64 0x3FA999999999999A#64) =
      .next ((encAfter 0x3FE4F0307F23CC8E#64 0x3FA999999999999A#64).answer
        (dec (encAfter 0x3FE4F0307F23CC8E#64 0x3FA999999999999A#64).r0)) ∧
    ((encAfter 0x3FE4F0307F23CC8E#64 0x3FA999999999999A#64).answer
        (dec (encAfter 0x3FE4F0307F23CC8E#64 0x3FA999999999999A#64).r0)).status = 0 := ⟨encOk, rfl, by decide +kernel⟩

/-- Row E8, `41 · 2^−6` with `δ = 2^−5`, for the first clause; row DV18 for the second. -/
theorem witness_EncodeKeepsSignificantValues :
    (finite 0x3FE4800000000000#64 = true ∧ finite 0x3FA999999999999A#64 = true ∧ 0 < val 0x3FA999999999999A#64 ∧
      oddMultipleOf (val 0x3FE4800000000000#64) (deltaOf (val 0x3FA999999999999A#64) / 2)) ∧
    exec (.dec 0x8000000000000001#64 5) State.reset = .next (decAfter 0x8000000000000001#64) ∧
    (decAfter 0x8000000000000001#64).status = 0 :=
  ⟨⟨by decide +kernel, by decide +kernel, by decide +kernel, 41, by decide, by decide +kernel⟩, rfl, by decide +kernel⟩

theorem witness_EncodeIsIdempotentOnItsResult :
    type_of% encOk ∧
    exec (.enc (encAfter 0x3FE4F0307F23CC8E#64 0x3FA999999999999A#64).r0 0x3FA999999999999A#64)
        (encAfter 0x3FE4F0307F23CC8E#64 0x3FA999999999999A#64) =
      .next (encAfter 0x3FE4F0307F23CC8E#64 0x3FA999999999999A#64) :=
  ⟨encOk, congrArg Host.Outcome.next (by decide +kernel)⟩

/-- Row E1 and vector V1: `x < x'`. -/
theorem witness_EncodeMonotoneForOneUncertainty :
    exec (.enc 0xBFE4F0307F23CC8E#64 0x3FA999999999999A#64) State.reset =
      .next (encAfter 0xBFE4F0307F23CC8E#64 0x3FA999999999999A#64) ∧
    (encAfter 0xBFE4F0307F23CC8E#64 0x3FA999999999999A#64).status = 0 ∧ type_of% encOk ∧
    val 0xBFE4F0307F23CC8E#64 ≤ val 0x3FE4F0307F23CC8E#64 := ⟨rfl, by decide +kernel, encOk, by decide +kernel⟩

/-- Vector V1, and row E32, where `|x| < δ`. -/
theorem witness_EncodeStepsAreBinary64 :
    type_of% encOk ∧
    exec (.enc 0x3FF0000000000000#64 0x7FEFFFFFFFFFFFFF#64) State.reset =
      .next (encAfter 0x3FF0000000000000#64 0x7FEFFFFFFFFFFFFF#64) ∧
    (encAfter 0x3FF0000000000000#64 0x7FEFFFFFFFFFFFFF#64).status = 0 := ⟨encOk, rfl, by decide +kernel⟩

/-- The ends of the domain: `2^−1074` (row DV17), `−1` (row DV3), `2^1022`, the greatest `δ` (row DV15), and
`2^1023 + 2^971` (row DV13). -/
theorem witness_DecodeReturnsDeltaAndInterval :
    (finite 0x0000000000000001#64 = true ∧ 1 % 2 = 1 ∧ |val 0x0000000000000001#64| = (1 : ℕ) * 2 ^ (-1074 : ℤ) ∧
      (((1 : ℕ) : ℚ) + 1) * 2 ^ (-1074 : ℤ) ≤ maxfVal) ∧
    (finite 0xBFF0000000000000#64 = true ∧ |val 0xBFF0000000000000#64| = (1 : ℕ) * 2 ^ (0 : ℤ) ∧
      (((1 : ℕ) : ℚ) + 1) * 2 ^ (0 : ℤ) ≤ maxfVal) ∧
    (finite 0x7FD0000000000000#64 = true ∧ |val 0x7FD0000000000000#64| = (1 : ℕ) * 2 ^ (1022 : ℤ) ∧
      (((1 : ℕ) : ℚ) + 1) * 2 ^ (1022 : ℤ) ≤ maxfVal) ∧
    (finite 0x7FE0000000000001#64 = true ∧ (2 ^ 52 + 1) % 2 = 1 ∧
      |val 0x7FE0000000000001#64| = (2 ^ 52 + 1 : ℕ) * 2 ^ (971 : ℤ) ∧
      (((2 ^ 52 + 1 : ℕ) : ℚ) + 1) * 2 ^ (971 : ℤ) ≤ maxfVal) := by decide +kernel

/-- Rows DV29, DV30, DV11 (`i = 1023`), DV9 (`i = 971`) and DV13: every status, at both ends of the range of `i`. -/
theorem witness_DecodeStatusClosedForm :
    (exec (.dec 0x8000000000000000#64 5) State.reset = .next (decAfter 0x8000000000000000#64) ∧
      (decAfter 0x8000000000000000#64).status = 3) ∧
    (decAfter 0x7FF0000000000000#64).status = 3 ∧
    ((decAfter 0x7FE0000000000000#64).status = 4 ∧ |val 0x7FE0000000000000#64| = 2 ^ 1024 - 2 ^ 1023) ∧
    ((decAfter 0x7FEFFFFFFFFFFFFF#64).status = 4 ∧ |val 0x7FEFFFFFFFFFFFFF#64| = 2 ^ 1024 - 2 ^ 971) ∧
    (decAfter 0x7FE0000000000001#64).status = 0 :=
  ⟨⟨rfl, by decide +kernel⟩, by decide +kernel, by decide +kernel, by decide +kernel, by decide +kernel⟩

/-- Rows DV11 (`k = 52`: a zero fraction) and DV10 (`k = 0`: a fraction of ones). -/
theorem witness_DecodeOverflowPatterns :
    (exec (.dec 0x7FE0000000000000#64 5) State.reset = .next (decAfter 0x7FE0000000000000#64) ∧
      expField 0x7FE0000000000000#64 = 2046 ∧ fracField 0x7FE0000000000000#64 = 2 ^ 52 - 2 ^ 52) ∧
    (exec (.dec 0xFFEFFFFFFFFFFFFF#64 5) State.reset = .next (decAfter 0xFFEFFFFFFFFFFFFF#64) ∧
      expField 0xFFEFFFFFFFFFFFFF#64 = 2046 ∧ fracField 0xFFEFFFFFFFFFFFFF#64 = 2 ^ 52 - 2 ^ 0) :=
  ⟨⟨rfl, by decide +kernel, by decide +kernel⟩, rfl, by decide +kernel, by decide +kernel⟩

theorem witness_DecodeIgnoresSecondOperand : (ports 0b01#2 1 2).op = 0b01#2 := rfl

/-- Rows DV2 and DV3. -/
theorem witness_DecodeReflectsSign :
    exec (.dec 0x3FF0000000000000#64 5) State.reset = .next (decAfter 0x3FF0000000000000#64) ∧
    exec (.dec (0x3FF0000000000000#64 ^^^ 0x8000000000000000#64) 5) State.reset =
      .next (decAfter (0x3FF0000000000000#64 ^^^ 0x8000000000000000#64)) := ⟨rfl, rfl⟩

/-- Rows DV25 (no encoder's result in intent) and DV17. -/
theorem witness_DecodePostconditions :
    (exec (.dec 0x3FB999999999999A#64 5) State.reset = .next (decAfter 0x3FB999999999999A#64) ∧
      (decAfter 0x3FB999999999999A#64).status = 0) ∧
    (exec (.dec 0x0000000000000001#64 5) State.reset = .next (decAfter 0x0000000000000001#64) ∧
      (decAfter 0x0000000000000001#64).status = 0) := ⟨⟨rfl, by decide +kernel⟩, rfl, by decide +kernel⟩

/-- Vector V1, decoded (vector V2); row E36, whose decoding fails (row DV10). -/
theorem witness_DecodeInvertsEncode :
    (type_of% encOk ∧ (decAfter (encAfter 0x3FE4F0307F23CC8E#64 0x3FA999999999999A#64).r0).status = 0) ∧
    (type_of% encOkGreatest ∧ (decAfter (encAfter 0xFFEFFFFFFFFFFFFF#64 0x7CB0000000000000#64).r0).status ≠ 0) :=
  ⟨⟨encOk, by decide +kernel⟩, encOkGreatest, by decide +kernel⟩

/-- Row E18. -/
theorem witness_UncheckedFailureSurfacesAtDecode :
    exec (.enc 0x3FF0000000000000#64 0x3CB0000000000000#64) State.reset =
      .next (encAfter 0x3FF0000000000000#64 0x3CB0000000000000#64) ∧
    (encAfter 0x3FF0000000000000#64 0x3CB0000000000000#64).usable = false := ⟨rfl, by decide +kernel⟩

/-- The ends of the domain: row Z33 (`j = −1074`) and row Z39 (`j = 1022`). -/
theorem witness_RoundReturnsNearestDecimal :
    (finite 0x8000000000000001#64 = true ∧ 1 % 2 = 1 ∧ |val 0x8000000000000001#64| = (1 : ℕ) * 2 ^ (-1074 : ℤ) ∧
      (-1074 : ℤ) ≤ 1022 ∧ finite 0x0000000000000002#64 = true ∧ val 0x0000000000000002#64 = 2 ^ ((-1074 : ℤ) + 1)) ∧
    (finite 0x7FE8000000000000#64 = true ∧ 3 % 2 = 1 ∧ |val 0x7FE8000000000000#64| = (3 : ℕ) * 2 ^ (1022 : ℤ) ∧
      (1022 : ℤ) ≤ 1022 ∧ finite 0x7FE0000000000000#64 = true ∧ val 0x7FE0000000000000#64 = 2 ^ ((1022 : ℤ) + 1)) := by
  decide +kernel

/-- Rows Z49, Z51, Z42, Z44 and Z1: every status. -/
theorem witness_RoundStatusClosedForm :
    (exec (.drnd 0x0000000000000000#64 0x3FA0000000000000#64) State.reset =
        .next (drndAfter 0x0000000000000000#64 0x3FA0000000000000#64) ∧
      (drndAfter 0x0000000000000000#64 0x3FA0000000000000#64).status = 3) ∧
    (drndAfter 0x7FF0000000000000#64 0x3FA0000000000000#64).status = 3 ∧
    (drndAfter 0xFFE0000000000000#64 0).status = 4 ∧
    (drndAfter 0x3FE4800000000000#64 0x3FA999999999999A#64).status = 1 ∧
    (drndAfter 0x3FE4800000000000#64 0x3FA0000000000000#64).status = 0 :=
  ⟨⟨rfl, by decide +kernel⟩, by decide +kernel, by decide +kernel, by decide +kernel, by decide +kernel⟩

/-- Rows Z45 and Z1, and the end `j = 1022` with a wrong `δ`. -/
theorem witness_RoundAcceptsOnlyCarriedDelta :
    (finite 0x3FE4800000000000#64 = true ∧ 41 % 2 = 1 ∧ |val 0x3FE4800000000000#64| = (41 : ℕ) * 2 ^ (-6 : ℤ) ∧
      (-6 : ℤ) ≤ 1022 ∧ 0xBFA0000000000000#64 ≠ pow2 (-6 + 1) ∧ 0x3FA0000000000000#64 = pow2 (-6 + 1)) ∧
    (finite 0x7FE8000000000000#64 = true ∧ 3 % 2 = 1 ∧ |val 0x7FE8000000000000#64| = (3 : ℕ) * 2 ^ (1022 : ℤ) ∧
      (1022 : ℤ) ≤ 1022 ∧ 0x0000000000000000#64 ≠ pow2 (1022 + 1)) := by decide +kernel

/-- Row Z6 (`δ = 1/2`) and row Z1 (another `δ`). -/
theorem witness_RoundTiesExactlyAtOneHalf :
    (exec (.drnd 0xBFF4000000000000#64 0x3FE0000000000000#64) State.reset =
        .next (drndAfter 0xBFF4000000000000#64 0x3FE0000000000000#64) ∧
      (drndAfter 0xBFF4000000000000#64 0x3FE0000000000000#64).status = 0 ∧ val 0x3FE0000000000000#64 = 1 / 2) ∧
    (exec (.drnd 0x3FE4800000000000#64 0x3FA0000000000000#64) State.reset =
        .next (drndAfter 0x3FE4800000000000#64 0x3FA0000000000000#64) ∧
      (drndAfter 0x3FE4800000000000#64 0x3FA0000000000000#64).status = 0 ∧ val 0x3FA0000000000000#64 ≠ 1 / 2) :=
  ⟨⟨rfl, by decide +kernel, by decide +kernel⟩, rfl, by decide +kernel, by decide +kernel⟩

/-- A successful `DRND` (row Z1). -/
theorem drndOk : exec (.drnd 0x3FE4800000000000#64 0x3FA0000000000000#64) State.reset =
      .next (drndAfter 0x3FE4800000000000#64 0x3FA0000000000000#64) ∧
    (drndAfter 0x3FE4800000000000#64 0x3FA0000000000000#64).status = 0 := ⟨rfl, by decide +kernel⟩

/-- Row Z1, and row Z33 at the least magnitude, negative. -/
theorem witness_RoundCoefficientRange :
    type_of% drndOk ∧
    exec (.drnd 0x8000000000000001#64 0x0000000000000002#64) State.reset =
      .next (drndAfter 0x8000000000000001#64 0x0000000000000002#64) ∧
    (drndAfter 0x8000000000000001#64 0x0000000000000002#64).status = 0 := ⟨drndOk, rfl, by decide +kernel⟩

/-- `δ = 1` (row Z22) and `δ = 16` (row Z12), the ends of the range where `z = y`; `δ = 2` (row Z8); `δ = 1/2` (row Z6). -/
theorem witness_RoundPostconditions :
    (exec (.drnd 0x3FF8000000000000#64 0x3FF0000000000000#64) State.reset =
        .next (drndAfter 0x3FF8000000000000#64 0x3FF0000000000000#64) ∧
      (drndAfter 0x3FF8000000000000#64 0x3FF0000000000000#64).status = 0 ∧ 1 ≤ val 0x3FF0000000000000#64 ∧
      val 0x3FF0000000000000#64 ≤ 16) ∧
    (exec (.drnd 0x4038000000000000#64 0x4030000000000000#64) State.reset =
        .next (drndAfter 0x4038000000000000#64 0x4030000000000000#64) ∧
      (drndAfter 0x4038000000000000#64 0x4030000000000000#64).status = 0 ∧ 1 ≤ val 0x4030000000000000#64 ∧
      val 0x4030000000000000#64 ≤ 16) ∧
    ((drndAfter 0xBFF0000000000000#64 0x4000000000000000#64).status = 0 ∧ val 0x4000000000000000#64 = 2) ∧
    ((drndAfter 0xBFF4000000000000#64 0x3FE0000000000000#64).status = 0 ∧ val 0x3FE0000000000000#64 = 1 / 2) :=
  ⟨⟨rfl, by decide +kernel, by decide +kernel, by decide +kernel⟩,
    ⟨rfl, by decide +kernel, by decide +kernel, by decide +kernel⟩, by decide +kernel, by decide +kernel⟩

/-- Rows Z1 and Z2. -/
theorem witness_RoundReflectsSign :
    type_of% drndOk ∧
    exec (.drnd (0x3FE4800000000000#64 ^^^ 0x8000000000000000#64) 0x3FA0000000000000#64) State.reset =
      .next (drndAfter (0x3FE4800000000000#64 ^^^ 0x8000000000000000#64) 0x3FA0000000000000#64) := ⟨drndOk, rfl⟩

/-- Row Z1 with itself for the first clause; for the second, `y` itself. -/
theorem witness_DecimalWithDeltaDeterminesY :
    type_of% drndOk ∧
    oddMultipleOf (41 / 64) (val 0x3FA0000000000000#64 / 2) ∧
    |(41 / 64 : ℚ) - decimalValue (drndAfter 0x3FE4800000000000#64 0x3FA0000000000000#64).r0
        (drndAfter 0x3FE4800000000000#64 0x3FA0000000000000#64).r1| ≤
      |val 0x3FE4800000000000#64 - decimalValue (drndAfter 0x3FE4800000000000#64 0x3FA0000000000000#64).r0
        (drndAfter 0x3FE4800000000000#64 0x3FA0000000000000#64).r1| :=
  ⟨drndOk, ⟨41, by decide, by decide +kernel⟩, by decide +kernel⟩

/-- Vector V1 and row DV25; and the operands of `DRND` in both roles. -/
theorem witness_PipelineOperandsFit :
    type_of% encOk ∧
    exec (.dec (encAfter 0x3FE4F0307F23CC8E#64 0x3FA999999999999A#64).r0 5)
        (encAfter 0x3FE4F0307F23CC8E#64 0x3FA999999999999A#64) =
      .next ((encAfter 0x3FE4F0307F23CC8E#64 0x3FA999999999999A#64).answer
        (dec (encAfter 0x3FE4F0307F23CC8E#64 0x3FA999999999999A#64).r0)) ∧
    exec (.drnd (encAfter 0x3FE4F0307F23CC8E#64 0x3FA999999999999A#64).r0 5)
        (encAfter 0x3FE4F0307F23CC8E#64 0x3FA999999999999A#64) =
      .next ((encAfter 0x3FE4F0307F23CC8E#64 0x3FA999999999999A#64).answer
        (drnd (encAfter 0x3FE4F0307F23CC8E#64 0x3FA999999999999A#64).r0 5)) ∧
    exec (.dec 0x3FB999999999999A#64 5) State.reset = .next (decAfter 0x3FB999999999999A#64) ∧
    (decAfter 0x3FB999999999999A#64).status = 0 := ⟨encOk, rfl, rfl, rfl, by decide +kernel⟩

/-- Vectors V1 and V2 (`δ = 2^−5`); and `x = 3`, `ε = 3` (row E12), the excepted `δ = 2`. -/
theorem witness_PipelineDisplayBound :
    (type_of% encOk ∧
      exec (.dec (encAfter 0x3FE4F0307F23CC8E#64 0x3FA999999999999A#64).r0 5)
          (encAfter 0x3FE4F0307F23CC8E#64 0x3FA999999999999A#64) =
        .next ((encAfter 0x3FE4F0307F23CC8E#64 0x3FA999999999999A#64).answer
          (dec (encAfter 0x3FE4F0307F23CC8E#64 0x3FA999999999999A#64).r0)) ∧
      ((encAfter 0x3FE4F0307F23CC8E#64 0x3FA999999999999A#64).answer
          (dec (encAfter 0x3FE4F0307F23CC8E#64 0x3FA999999999999A#64).r0)).status = 0) ∧
    (exec (.enc 0x4008000000000000#64 0x4008000000000000#64) State.reset =
        .next (encAfter 0x4008000000000000#64 0x4008000000000000#64) ∧
      (encAfter 0x4008000000000000#64 0x4008000000000000#64).status = 0 ∧
      exec (.dec (encAfter 0x4008000000000000#64 0x4008000000000000#64).r0 5)
          (encAfter 0x4008000000000000#64 0x4008000000000000#64) =
        .next ((encAfter 0x4008000000000000#64 0x4008000000000000#64).answer
          (dec (encAfter 0x4008000000000000#64 0x4008000000000000#64).r0)) ∧
      ((encAfter 0x4008000000000000#64 0x4008000000000000#64).answer
          (dec (encAfter 0x4008000000000000#64 0x4008000000000000#64).r0)).status = 0 ∧
      val ((encAfter 0x4008000000000000#64 0x4008000000000000#64).answer
          (dec (encAfter 0x4008000000000000#64 0x4008000000000000#64).r0)).r0 = 2) :=
  ⟨⟨encOk, rfl, by decide +kernel⟩, rfl, by decide +kernel, rfl, by decide +kernel, by decide +kernel⟩

end Sys2Proof.Tests
end

