-- ==== Sys2Proof/Proofs/State.lean ====
section
/-! PROOFS. Purity of the block (10_state.md R11): what a step of a presented operation answers, what the host reads
over a list of operations, and the two statements that follow. -/

namespace Sys2Proof

@[simp] theorem aField_packCmd (op : OpCode) (a b : B64) : aField (packCmd op a b) = a := by
  apply BitVec.eq_of_getLsbD_eq
  intro k hk
  have hop : ¬ 2 + k < 2 := by omega
  simp only [aField, packCmd, BitVec.getLsbD_extractLsb', BitVec.getLsbD_append]
  simp [hk, hop]

@[simp] theorem bField_packCmd (op : OpCode) (a b : B64) : bField (packCmd op a b) = b := by
  apply BitVec.eq_of_getLsbD_eq
  intro k hk
  have hop : ¬ 66 + k < 2 := by omega
  have ha : 66 + k - 2 = 64 + k := by omega
  simp only [bField, packCmd, BitVec.getLsbD_extractLsb', BitVec.getLsbD_append]
  simp [hk, hop, ha]

/-- The decoder reads back the three ports of a packed triple. -/
@[simp] theorem decode_packCmd (op : OpCode) (a b : B64) : decode (packCmd op a b) = decodeOp op a b := by
  simp [decode, Laws.OpField.opField_packCmd]

@[simp] theorem decode_encode (i : Instr) : decode (encode i) = i := by
  rw [encode, decode_packCmd]
  cases i <;> rfl

end Sys2Proof

namespace Sys2Proof.Machine

/-- What is on the input ports once the host has driven an operation is the operation's own encoding. -/
@[simp] theorem State.present_presented (s : State) (i : Instr) : (s.present i).presented = encode i := by
  simp [State.present, State.presented, encode, Laws.OpField.opField_packCmd]

/-- A step of a presented operation answers that operation. -/
theorem step_present (s : State) (i : Instr) :
    step (s.present i) = .next ((s.present i).answer (responseOf i)) := by
  rw [step_eq, State.present_presented, decode_encode]

/-- What the host reads from the output ports after a response. -/
def Response.outputs (r : Response) : StatusCode × B64 × B64 × B64 := (r.status, r.r0, r.r1, r.r2)

/-- After any answer the output ports hold the response and nothing of the state before. -/
theorem State.outputs_answer (s : State) (r : Response) : (s.answer r).outputs = r.outputs := rfl

/-- Two states that agree on the input ports agree on every port once both have been answered alike. -/
theorem State.answer_eq_of_inputs {s s' : State} (hop : s.op = s'.op) (ha : s.a = s'.a) (hb : s.b = s'.b)
    (r : Response) : s.answer r = s'.answer r := by
  simp [State.answer, hop, ha, hb]

theorem State.presented_eq_of_inputs {s s' : State} (hop : s.op = s'.op) (ha : s.a = s'.a) (hb : s.b = s'.b) :
    s.presented = s'.presented := by
  simp [State.presented, hop, ha, hb]

theorem session_cons (i : Instr) (l : List Instr) (s : State) :
    session (i :: l) s = (responseOf i).outputs :: session l ((s.present i).answer (responseOf i)) := by
  rw [session, step_present, ← State.outputs_answer (s.present i)]

/-- What the host reads over a list is a function of each operation alone; the ports it started from do not occur. -/
theorem session_eq_map (l : List Instr) (s : State) : session l s = l.map fun i => (responseOf i).outputs := by
  induction l generalizing s with
  | nil => rfl
  | cons i l ih => rw [session_cons, ih, List.map_cons]

/-- Settles O10: the answer is a function of the operation, and the output ports of the state before are overwritten. -/
theorem equalInputsGiveEqualOutputs : Obligations.EqualInputsGiveEqualOutputs := by
  unfold Obligations.EqualInputsGiveEqualOutputs
  constructor
  · intro i s s'
    exact ⟨_, _, exec_eq i s, exec_eq i s', by rw [State.outputs_answer, State.outputs_answer]⟩
  · intro s s' hop ha hb
    rw [step_eq, step_eq, State.presented_eq_of_inputs hop ha hb, State.answer_eq_of_inputs hop ha hb]

/-- Settles O11: a list reads off each operation's own response (`session_eq_map`), and so does each one-element list
from reset. -/
theorem sessionGivesEachOperationItsOwnResult : Obligations.SessionGivesEachOperationItsOwnResult := by
  unfold Obligations.SessionGivesEachOperationItsOwnResult
  intro l s
  constructor
  · rw [session_eq_map, List.length_map]
  · simp only [session_eq_map, List.map_cons, List.map_nil]
    exact List.map_eq_flatMap

end Sys2Proof.Machine
end

/-! PROOFS. The operation map (30_encoding.md R34) and the reserved code (R35): which operation a step evaluates, which
status codes each operation answers with, and the two statements that follow. -/

namespace Sys2Proof

@[simp] theorem decodeOp_enc (a b : B64) : decodeOp 0b00#2 a b = .enc a b := rfl
@[simp] theorem decodeOp_dec (a b : B64) : decodeOp 0b01#2 a b = .dec a b := rfl
@[simp] theorem decodeOp_drnd (a b : B64) : decodeOp 0b10#2 a b = .drnd a b := rfl
@[simp] theorem decodeOp_reserved (a b : B64) : decodeOp 0b11#2 a b = .reserved a b := rfl

/-- An operation select is one of the four codes of the operation map. -/
theorem OpCode.cases (op : OpCode) : op = 0b00#2 ∨ op = 0b01#2 ∨ op = 0b10#2 ∨ op = 0b11#2 := by
  revert op
  decide

/-- The reserved code alone decodes to an operation that the operation map does not name. -/
theorem decodeOp_wellFormed_eq_false_iff (op : OpCode) (a b : B64) :
    (decodeOp op a b).wellFormed = false ↔ op = 0b11#2 := by
  obtain rfl | rfl | rfl | rfl := OpCode.cases op <;> simp [Instr.wellFormed]

end Sys2Proof

namespace Sys2Proof.Machine

/-- A step is `exec` of the row that the port `op` selects, on the words of ports `a` and `b`. -/
theorem step_eq_exec_decodeOp (s : State) : step s = exec (decodeOp s.op s.a s.b) s := by
  rw [step, State.presented, decode_packCmd]

theorem encFinish_status (s : Bool) (m : Nat) (j : Int) :
    (encFinish s m j).status = 0 ∨ (encFinish s m j).status = 4 ∨ (encFinish s m j).status = 5 := by
  unfold encFinish
  split
  · exact .inr (.inl rfl)
  · split
    · exact .inr (.inr rfl)
    · exact .inl rfl

/-- The status codes of `ENC`, in the order of its checks (41_encoder.md R65). -/
theorem enc_status (a b : B64) :
    (enc a b).status = 1 ∨ (enc a b).status = 2 ∨
      (enc a b).status = 0 ∨ (enc a b).status = 4 ∨ (enc a b).status = 5 := by
  unfold enc
  split
  · exact .inl rfl
  · split
    · exact .inr (.inl rfl)
    · exact .inr (.inr (encFinish_status _ _ _))

theorem decInterval_status (s : Bool) (m : Nat) (j : Int) : (decInterval s m j).status = 0 := by
  cases s <;> rfl

/-- The status codes of `DEC`, in the order of its checks (42_decoder.md R80). -/
theorem dec_status (a : B64) : (dec a).status = 3 ∨ (dec a).status = 4 ∨ (dec a).status = 0 := by
  unfold dec
  split
  · exact .inl rfl
  · split
    · exact .inr (.inl rfl)
    · exact .inr (.inr (decInterval_status _ _ _))

/-- The status codes of `DRND`, in the order of its checks (43_decimal_rounder.md R95). -/
theorem drnd_status (a b : B64) :
    (drnd a b).status = 3 ∨ (drnd a b).status = 4 ∨ (drnd a b).status = 1 ∨ (drnd a b).status = 0 := by
  unfold drnd
  split
  · exact .inl rfl
  · split
    · exact .inr (.inl rfl)
    · split
      · exact .inr (.inr (.inl rfl))
      · exact .inr (.inr (.inr rfl))

/-- Code 7, `IllegalOperation`, is the answer to the reserved code and to nothing else (30_encoding.md R35, R36). -/
theorem responseOf_status_eq_seven_iff (i : Instr) : (responseOf i).status = 7 ↔ i.wellFormed = false := by
  cases i with
  | enc x eps => obtain h | h | h | h | h := enc_status x eps <;> simp [responseOf, Instr.wellFormed, h]
  | dec y unused => obtain h | h | h := dec_status y <;> simp [responseOf, Instr.wellFormed, h]
  | drnd y d => obtain h | h | h | h := drnd_status y d <;> simp [responseOf, Instr.wellFormed, h]
  | reserved a b => exact iff_of_true rfl rfl

/-- The reserved code writes code 7 and zeros on the output ports and leaves the input ports. -/
theorem exec_reserved (a b : B64) (s : State) :
    exec (.reserved a b) s = .next { s with status := 7, r0 := 0, r1 := 0, r2 := 0 } := rfl

/-- Settles O1: the decoder reads the ports back (`step_eq_exec_decodeOp`), and each code selects its own row. -/
theorem operationSelectChoosesOperation : Obligations.OperationSelectChoosesOperation := by
  unfold Obligations.OperationSelectChoosesOperation
  intro s
  refine ⟨?_, ?_, ?_, ?_⟩ <;> intro hop <;> rw [step_eq_exec_decodeOp, hop]
  · rw [decodeOp_enc]
  · rw [decodeOp_dec]
  · rw [decodeOp_drnd]
  · rw [decodeOp_reserved]

/-- Settles O17: the reserved code is answered by `exec_reserved`, and no well-formed operation answers code 7
(`responseOf_status_eq_seven_iff`). -/
theorem reservedCodeAnswersIllegalOperation : Obligations.ReservedCodeAnswersIllegalOperation := by
  unfold Obligations.ReservedCodeAnswersIllegalOperation
  refine ⟨exec_reserved, ?_, ?_⟩
  · intro s hop
    obtain ⟨-, -, -, hreserved⟩ := operationSelectChoosesOperation s
    rw [hreserved hop, exec_reserved]
  · intro s hop
    refine ⟨_, (step_eq_exec_decodeOp s).trans (exec_eq _ s), ?_⟩
    rw [State.answer_status, ne_eq, responseOf_status_eq_seven_iff, decodeOp_wellFormed_eq_false_iff]
    exact hop

end Sys2Proof.Machine

/-! PROOFS. The source's formula of the encoder in exact rationals (41_encoder.md R69, R70, R75, R76): the cell of width
`δ` that holds `|x|`, its midpoint, and the value reflected to the sign of `x`. -/

namespace Sys2Proof.Machine

theorem deltaOf_pos (ε : ℚ) : 0 < deltaOf ε := by
  unfold deltaOf
  positivity

theorem deltaOf_le {ε : ℚ} (h : 0 < ε) : deltaOf ε ≤ ε := by
  exact_mod_cast Int.zpow_log_le_self (b := 2) (by norm_num) h

theorem lt_two_mul_deltaOf (ε : ℚ) : ε < 2 * deltaOf ε := by
  have h := Int.lt_zpow_succ_log_self (b := 2) (by norm_num) ε
  rw [Nat.cast_ofNat, zpow_add_one₀ (by norm_num)] at h
  unfold deltaOf
  linarith

theorem half_deltaOf (ε : ℚ) : deltaOf ε / 2 = 2 ^ (Int.log 2 ε - 1) := by
  rw [deltaOf, zpow_sub_one₀ (by norm_num), div_eq_mul_inv]

/-- The lower end of the cell is `⌊|x|/δ⌋ · δ`. -/
theorem encodedMagnitude_sub_half (x ε : ℚ) :
    encodedMagnitude x ε - deltaOf ε / 2 = ⌊|x| / deltaOf ε⌋ * deltaOf ε := by
  unfold encodedMagnitude
  ring

theorem cell_lower (x ε : ℚ) : encodedMagnitude x ε - deltaOf ε / 2 ≤ |x| := by
  rw [encodedMagnitude_sub_half, ← le_div_iff₀ (deltaOf_pos ε)]
  exact Int.floor_le _

theorem cell_upper (x ε : ℚ) : |x| < encodedMagnitude x ε + deltaOf ε / 2 := by
  have h := Int.lt_floor_add_one (|x| / deltaOf ε)
  rw [div_lt_iff₀ (deltaOf_pos ε)] at h
  have hm := encodedMagnitude_sub_half x ε
  linarith

theorem half_deltaOf_le_encodedMagnitude (x ε : ℚ) : deltaOf ε / 2 ≤ encodedMagnitude x ε := by
  have hδ := deltaOf_pos ε
  have hk : (0 : ℚ) ≤ ⌊|x| / deltaOf ε⌋ := by exact_mod_cast Int.floor_nonneg.2 (by positivity)
  have hm := encodedMagnitude_sub_half x ε
  have hlow := mul_nonneg hk hδ.le
  linarith

theorem encodedMagnitude_pos (x ε : ℚ) : 0 < encodedMagnitude x ε :=
  (half_pos (deltaOf_pos ε)).trans_le (half_deltaOf_le_encodedMagnitude x ε)

/-- The lower end of the cell is reached exactly in a tie (41_encoder.md R74). -/
theorem cell_lower_eq_iff (x ε : ℚ) :
    encodedMagnitude x ε - deltaOf ε / 2 = |x| ↔ ∃ k : ℤ, x = k * deltaOf ε := by
  have hδ := deltaOf_pos ε
  rw [encodedMagnitude_sub_half]
  constructor
  · intro h
    rcases abs_choice x with hx | hx
    · exact ⟨⌊|x| / deltaOf ε⌋, by rw [h, hx]⟩
    · exact ⟨-⌊|x| / deltaOf ε⌋, by push_cast; linarith⟩
  · rintro ⟨k, rfl⟩
    rw [abs_mul, abs_of_pos hδ, mul_div_cancel_right₀ _ hδ.ne', ← Int.cast_abs, Int.floor_intCast]

theorem abs_encodedValue (x ε : ℚ) : |encodedValue x ε| = encodedMagnitude x ε := by
  have hm := encodedMagnitude_pos x ε
  unfold encodedValue
  split
  · rw [abs_neg, abs_of_pos hm]
  · exact abs_of_pos hm

theorem encodedValue_neg {x : ℚ} (h : x < 0) (ε : ℚ) : encodedValue x ε < 0 := by
  rw [encodedValue, if_pos h]
  exact neg_neg_of_pos (encodedMagnitude_pos x ε)

theorem encodedValue_pos {x : ℚ} (h : 0 ≤ x) (ε : ℚ) : 0 < encodedValue x ε := by
  rw [encodedValue, if_neg h.not_gt]
  exact encodedMagnitude_pos x ε

/-- The reflection moves no distance: `x` and its encoded value lie on one side of zero. -/
theorem abs_sub_encodedValue (x ε : ℚ) : |x - encodedValue x ε| = |(|x| - encodedMagnitude x ε)| := by
  rcases lt_or_ge x 0 with hx | hx
  · rw [encodedValue, if_pos hx, abs_of_neg hx, ← abs_neg]
    ring_nf
  · rw [encodedValue, if_neg hx.not_gt, abs_of_nonneg hx]

theorem abs_sub_encodedValue_le (x ε : ℚ) : |x - encodedValue x ε| ≤ deltaOf ε / 2 := by
  have hlow := cell_lower x ε
  have hup := cell_upper x ε
  rw [abs_sub_encodedValue, abs_le]
  constructor <;> linarith

/-- The upper end of the cell is open, so the distance `δ/2` is reached at the lower end only. -/
theorem abs_sub_encodedValue_eq_iff (x ε : ℚ) :
    |x - encodedValue x ε| = deltaOf ε / 2 ↔ ∃ k : ℤ, x = k * deltaOf ε := by
  have hδ := deltaOf_pos ε
  have hup := cell_upper x ε
  rw [abs_sub_encodedValue, ← cell_lower_eq_iff, abs_eq (by positivity)]
  constructor
  · rintro (h | h) <;> linarith
  · intro h
    right
    linarith

theorem oddMultipleOf_encodedValue (x ε : ℚ) : oddMultipleOf (encodedValue x ε) (deltaOf ε / 2) := by
  have hodd : Odd (2 * ⌊|x| / deltaOf ε⌋ + 1) := odd_two_mul_add_one _
  unfold encodedValue encodedMagnitude
  split
  · exact ⟨_, hodd.neg, by push_cast; ring⟩
  · exact ⟨_, hodd, by push_cast; ring⟩

/-- Below a multiple of `δ` above `|x|` lies the whole cell of `x`, its midpoint too. -/
theorem encodedMagnitude_lt_of_abs_lt {x ε : ℚ} {n : ℕ} (h : |x| < n * deltaOf ε) :
    encodedMagnitude x ε < n * deltaOf ε := by
  have hδ := deltaOf_pos ε
  have hfloor : ⌊|x| / deltaOf ε⌋ < (n : ℤ) := Int.floor_lt.2 (by rw [div_lt_iff₀ hδ]; exact_mod_cast h)
  have hcell : (⌊|x| / deltaOf ε⌋ : ℚ) + 1 ≤ n := by exact_mod_cast hfloor
  have hmid := encodedMagnitude_sub_half x ε
  have := mul_le_mul_of_nonneg_right hcell hδ.le
  linarith

/-- The same with the multiple a power of two of at least `δ`. -/
theorem encodedMagnitude_lt_two_pow {x ε : ℚ} {n : ℤ} (hn : Int.log 2 ε ≤ n) (h : |x| < 2 ^ n) :
    encodedMagnitude x ε < 2 ^ n := by
  obtain ⟨k, hk⟩ := Int.eq_ofNat_of_zero_le (show 0 ≤ n - Int.log 2 ε by omega)
  have hpow : (2 : ℚ) ^ n = ((2 ^ k : ℕ) : ℚ) * deltaOf ε := by
    rw [deltaOf, show n = k + Int.log 2 ε by omega, zpow_add₀ (by norm_num), zpow_natCast]
    push_cast
    rfl
  rw [hpow] at h ⊢
  exact encodedMagnitude_lt_of_abs_lt h

/-- With its leading bit at most 51 places above `δ`, `x` lies within `2^52` cells of zero (41_encoder.md R72). -/
theorem abs_lt_of_log_sub_le {x ε : ℚ} (h : x ≠ 0 → Int.log 2 |x| - Int.log 2 ε ≤ 51) :
    |x| < 2 ^ (Int.log 2 ε + 52) := by
  by_cases hx : x = 0
  · rw [hx, abs_zero]
    positivity
  · have hlog := h hx
    exact_mod_cast (Int.lt_zpow_iff_log_lt (b := 2) (by norm_num) (abs_pos.2 hx)).2 (by omega)

end Sys2Proof.Machine

/-! PROOFS. Which magnitudes a finite pattern has (00_scope.md R5, 40_exponent_extractor.md R55, R56), and what the sign
bit of a pattern does not touch. -/

namespace Sys2Proof.Machine

theorem le_of_odd_scaled_eq {m n : ℕ} {i j : ℤ} (hm : m % 2 = 1) (h : (m : ℚ) * 2 ^ i = n * 2 ^ j) : j ≤ i := by
  by_contra hlt
  obtain ⟨k, hk⟩ := Int.eq_ofNat_of_zero_le (show 0 ≤ j - i - 1 by omega)
  have hmn : (m : ℚ) = (2 * (n * 2 ^ k) : ℕ) := by
    rw [show j = i + 1 + k by omega, zpow_add₀ (by norm_num), zpow_add₀ (by norm_num), zpow_natCast, zpow_one] at h
    have h2 : (2 : ℚ) ^ i ≠ 0 := by positivity
    push_cast
    exact mul_right_cancel₀ h2 (by rw [h]; ring)
  have : m = 2 * (n * 2 ^ k) := by exact_mod_cast hmn
  omega

/-- The odd significand and the scale of a value are unique. -/
theorem odd_scaled_unique {m n : ℕ} {i j : ℤ} (hm : m % 2 = 1) (hn : n % 2 = 1)
    (h : (m : ℚ) * 2 ^ i = n * 2 ^ j) : m = n ∧ i = j := by
  obtain rfl : i = j := le_antisymm (le_of_odd_scaled_eq hn h.symm) (le_of_odd_scaled_eq hm h)
  have h2 : (2 : ℚ) ^ i ≠ 0 := by positivity
  exact ⟨by exact_mod_cast mul_right_cancel₀ h2 h, rfl⟩

/-- `lsb` is the only odd significand and scale that give a pattern's magnitude (40_exponent_extractor.md R55). -/
theorem lsb_eq {p : B64} {m : ℕ} {j : ℤ} (hf : finite p = true) (hz : iszero p = false) (hm : m % 2 = 1)
    (h : |val p| = m * 2 ^ j) : lsb p = (m, j) := by
  obtain ⟨hv, hodd, -⟩ := lsb_spec hf hz
  obtain ⟨h1, h2⟩ := odd_scaled_unique hodd hm (hv.symm.trans h)
  exact Prod.ext h1 h2

/-- No finite pattern exceeds `MAXF` (00_scope.md R5). -/
theorem abs_val_le_maxfVal {p : B64} (hf : finite p = true) : |val p| ≤ maxfVal := by
  obtain ⟨hM, -, hq, -⟩ := sig_range hf
  have hM' : ((sig p).1 : ℚ) ≤ 2 ^ 53 - 1 := by
    rw [le_sub_iff_add_le]
    exact_mod_cast hM
  rw [abs_val, maxfVal, ← zpow_natCast 2 971]
  exact mul_le_mul hM' (zpow_le_zpow_right₀ (by norm_num) hq) (by positivity) (by norm_num)

theorem abs_val_lt_two_pow {p : B64} (hf : finite p = true) : |val p| < 2 ^ (1024 : ℤ) := by
  refine (abs_val_le_maxfVal hf).trans_lt ?_
  rw [maxfVal, show (1024 : ℤ) = ((53 + 971 : ℕ) : ℤ) by norm_num, zpow_natCast, pow_add]
  exact mul_lt_mul_of_pos_right (sub_one_lt _) (by positivity)

/-- A positive integer at a scale that lies below a power of two has its leading bit below it. -/
theorem scale_add_bitlen_le {m : ℕ} {j n : ℤ} (hm : 0 < m) (h : (m : ℚ) * 2 ^ j < 2 ^ n) : j + bitlen m ≤ n := by
  have := (zpow_lt_zpow_iff_right₀ (by norm_num : (1 : ℚ) < 2)).1 ((scaled_bounds j hm).1.trans_lt h)
  omega

/-- A pattern of an odd magnitude meets the three conditions of 40_exponent_extractor.md R56. -/
theorem representable_of_abs_val {p : B64} {m : ℕ} {j : ℤ} (hf : finite p = true) (hm : m % 2 = 1)
    (h : |val p| = m * 2 ^ j) : representable m j = true := by
  have hm0 : 0 < m := by omega
  have hz : iszero p = false := by
    rw [← Bool.not_eq_true, ← val_eq_zero_iff hf, ← abs_eq_zero, h]
    positivity
  obtain ⟨-, -, h53, hj, -⟩ := lsb_spec hf hz
  rw [lsb_eq hf hz hm h] at h53 hj
  rw [representable_odd hm]
  exact ⟨hj, bitlen_le_iff.2 h53, scale_add_bitlen_le hm0 (h ▸ abs_val_lt_two_pow hf)⟩

/-- For an odd significand, `representable` is "some finite pattern of the sign `s` has this value"
(40_exponent_extractor.md R56). -/
theorem representable_iff_exists_val {m : ℕ} (hm : m % 2 = 1) (s : Bool) (j : ℤ) :
    representable m j = true ↔ ∃ p : B64, finite p = true ∧ val p = signOf s * (m * 2 ^ j) := by
  constructor
  · intro h
    obtain ⟨hf, -, -, hv⟩ := pack_spec s (by omega) h
    exact ⟨_, hf, hv⟩
  · rintro ⟨p, hf, hv⟩
    refine representable_of_abs_val hf hm ?_
    rw [hv, abs_mul, abs_signOf, one_mul, abs_of_nonneg (by positivity)]

/-- A power of two is packed with fraction field zero or with one bit of it set. -/
theorem pow2_eq_pack (k : ℤ) : pow2 k = pack false 1 k := by
  have hb : bitlen 1 = 1 := rfl
  have hc : ctz 1 = 0 := rfl
  simp [pow2, pack, packOdd, hb, hc]

/-- The pattern whose only set bit is the sign bit (30_encoding.md R30). -/
def signMask : B64 := 0x8000000000000000#64

theorem signMask_eq : signMask = BitVec.ofBool true ++ 0#11 ++ 0#52 := by decide

@[simp] theorem signBit_xor_signMask (p : B64) : signBit (p ^^^ signMask) = !signBit p := by
  have h : ∀ c : BitVec 1, (c ^^^ 1#1 == 1#1) = !(c == 1#1) := by decide
  rw [signBit, BitVec.extractLsb_xor]
  exact h _

@[simp] theorem expField_xor_signMask (p : B64) : expField (p ^^^ signMask) = expField p := by
  have h : signMask.extractLsb 62 52 = 0#11 := by decide
  rw [expField, BitVec.extractLsb_xor, h, BitVec.xor_zero, expField]

@[simp] theorem fracField_xor_signMask (p : B64) : fracField (p ^^^ signMask) = fracField p := by
  have h : signMask.extractLsb 51 0 = 0#52 := by decide
  rw [fracField, BitVec.extractLsb_xor, h, BitVec.xor_zero, fracField]

@[simp] theorem finite_xor_signMask (p : B64) : finite (p ^^^ signMask) = finite p := by simp [finite]

@[simp] theorem iszero_xor_signMask (p : B64) : iszero (p ^^^ signMask) = iszero p := by simp [iszero]

@[simp] theorem sig_xor_signMask (p : B64) : sig (p ^^^ signMask) = sig p := by simp [sig]

theorem ofFields_not (s : Bool) (e f : ℕ) : ofFields (!s) e f = ofFields s e f ^^^ signMask := by
  rw [signMask_eq, ofFields, ofFields, BitVec.xor_append, BitVec.xor_append, BitVec.xor_zero, BitVec.xor_zero,
    BitVec.ofBool_xor_ofBool, Bool.xor_true]

/-- Packing with the other sign sets the other sign bit and nothing else (40_exponent_extractor.md R57). -/
theorem pack_not (s : Bool) {n : ℕ} (hn : 0 < n) (j : ℤ) : pack (!s) n j = pack s n j ^^^ signMask := by
  simp only [pack, if_neg hn.ne', packOdd, ofFields_not]
  split <;> rfl

end Sys2Proof.Machine

/-! PROOFS. The Encoder (41_encoder.md): how `ENC` of any two operands ends, by the exact magnitude of the source's
formula, and the statements that follow. -/

namespace Sys2Proof.Machine

/-- The state after an operation is no other than its answer. -/
theorem eq_answer_of_exec {i : Instr} {s t : State} (h : exec i s = .next t) : t = s.answer (responseOf i) := by
  rw [exec_eq] at h
  injection h with h
  exact h.symm

theorem exec_enc (a b : B64) (s : State) : exec (.enc a b) s = .next (s.answer (enc a b)) := exec_eq _ s

theorem State.answer_returned (s : State) (y : B64) :
    s.answer (.returned y 0 0) = { s with status := 0, r0 := y, r1 := 0, r2 := 0 } := rfl

/-- `m` of 41_encoder.md R70, the odd multiple of `δ/2` that `ENC` packs. -/
def encSignificand (a b : B64) : ℕ := encMultiple Config.encTiePolicy (encCell a (ilog2 b))

/-- The policy `LARGER_MAGNITUDE` takes `2k + 1` in every cell, a tie included (41_encoder.md R70, R74). -/
theorem encMultiple_eq (policy : Config.EncTiePolicy) (k : ℕ) : encMultiple policy k = 2 * k + 1 := by
  cases policy
  rfl

theorem encSignificand_odd (a b : B64) : encSignificand a b % 2 = 1 := by
  rw [encSignificand, encMultiple_eq]
  omega

theorem encSignificand_pos (a b : B64) : 0 < encSignificand a b := by
  have := encSignificand_odd a b
  omega

/-- The sign `ENC` copies is that of the operand's value (41_encoder.md R68). -/
theorem encSign_eq_true_iff {a : B64} (ha : finite a = true) : encSign a = true ↔ val a < 0 := by
  cases hz : iszero a with
  | true => simp [encSign, hz, (val_eq_zero_iff ha).2 hz]
  | false => simpa [encSign, hz] using signBit_true_iff ha hz

theorem signOf_encSign_mul {a : B64} (ha : finite a = true) (ε : ℚ) :
    signOf (encSign a) * encodedMagnitude (val a) ε = encodedValue (val a) ε := by
  have h := encSign_eq_true_iff ha
  cases hs : encSign a with
  | true =>
    rw [hs] at h
    rw [encodedValue, if_pos (h.1 rfl), signOf_true, neg_one_mul]
  | false =>
    rw [hs] at h
    rw [encodedValue, if_neg fun hx => absurd (h.2 hx) (by simp), signOf_false, one_mul]

/-- Valid operands: the two checks of 41_encoder.md R66 and R67 pass. -/
structure EncOperands (a b : B64) : Prop where
  magnitude_finite : finite a = true
  uncertainty_finite : finite b = true
  uncertainty_pos : 0 < val b

section ValidOperands

variable {a b : B64}

theorem ilog2_eq_log_val (hb : finite b = true) (hpos : 0 < val b) : ilog2 b = Int.log 2 (val b) := by
  have hz : iszero b = false := by
    rw [← Bool.not_eq_true, ← val_eq_zero_iff hb]
    exact hpos.ne'
  rw [ilog2_eq_log hb hz, abs_of_pos hpos]

theorem encSignificand_floor (h : EncOperands a b) :
    (encSignificand a b : ℤ) = 2 * ⌊|val a| / deltaOf (val b)⌋ + 1 := by
  rw [encSignificand, encMultiple_eq, deltaOf, ← ilog2_eq_log_val h.uncertainty_finite h.uncertainty_pos,
    ← encCell_floor h.magnitude_finite]
  push_cast
  rfl

/-- The integers `m` and `j` of the pseudocode stand for the source's formula (41_encoder.md R70, R75). -/
theorem encSignificand_scaled (h : EncOperands a b) :
    (encSignificand a b : ℚ) * 2 ^ (Int.log 2 (val b) - 1) = encodedMagnitude (val a) (val b) := by
  rw [← half_deltaOf, encodedMagnitude, ← Int.cast_natCast (encSignificand a b), encSignificand_floor h]
  push_cast
  rfl

theorem enc_of_uncertaintyInvalid (h : ¬(finite b = true ∧ 0 < val b)) :
    enc a b = .raised .invalidUncertainty := by
  rw [← uncertaintyInvalid_false_iff, Bool.not_eq_false] at h
  rw [enc, if_pos h]

theorem enc_of_magnitudeInvalid (hb : finite b = true ∧ 0 < val b) (ha : ¬finite a = true) :
    enc a b = .raised .invalidMagnitude := by
  rw [← uncertaintyInvalid_false_iff] at hb
  simp [enc, hb, ha]

theorem enc_of_operands (h : EncOperands a b) :
    enc a b = encFinish (encSign a) (encSignificand a b) (Int.log 2 (val b) - 1) := by
  obtain ⟨ha, hb, hpos⟩ := h
  have hvalid := (uncertaintyInvalid_false_iff b).2 ⟨hb, hpos⟩
  simp [enc, hvalid, ha, encSignificand, ilog2_eq_log_val hb hpos]

end ValidOperands

theorem not_exceedsMaxf_of_representable {m : ℕ} {j : ℤ} (hm : m % 2 = 1) (h : representable m j = true) :
    exceedsMaxf m j = false := by
  obtain ⟨p, hf, hv⟩ := (representable_iff_exists_val hm false j).1 h
  rw [← Bool.not_eq_true, exceedsMaxf_iff, not_lt]
  rw [signOf_false, one_mul] at hv
  rw [← hv]
  exact (le_abs_self _).trans (abs_val_le_maxfVal hf)

/-- A representable magnitude passes both tests of 41_encoder.md R71 and R72. -/
theorem encFinish_of_representable (s : Bool) {m : ℕ} {j : ℤ} (hm : m % 2 = 1) (h : representable m j = true) :
    encFinish s m j = .returned (pack s m j) 0 0 := by
  simp [encFinish, h, not_exceedsMaxf_of_representable hm h]

/-- The ends of `ENC` by the exact value of the result, in the order of 60_exceptions.md R126. -/
inductive EncOutcome (a b : B64) : Response → Prop where
  | invalidUncertainty (hb : ¬(finite b = true ∧ 0 < val b)) : EncOutcome a b (.raised .invalidUncertainty)
  | invalidMagnitude (hb : finite b = true ∧ 0 < val b) (ha : ¬finite a = true) :
      EncOutcome a b (.raised .invalidMagnitude)
  | rangeOverflow (h : EncOperands a b) (hgt : maxfVal < encodedMagnitude (val a) (val b)) :
      EncOutcome a b (.raised .rangeOverflow)
  | unrepresentableResult (h : EncOperands a b) (hle : encodedMagnitude (val a) (val b) ≤ maxfVal)
      (hnone : ¬∃ p : B64, finite p = true ∧ val p = encodedValue (val a) (val b)) :
      EncOutcome a b (.raised .unrepresentableResult)
  | ok (h : EncOperands a b) (y : B64) (hf : finite y = true) (hz : iszero y = false)
      (hv : val y = encodedValue (val a) (val b)) : EncOutcome a b (.returned y 0 0)

/-- All that `ENC` can answer. -/
theorem enc_outcome (a b : B64) : EncOutcome a b (enc a b) := by
  by_cases hb : finite b = true ∧ 0 < val b
  · by_cases ha : finite a = true
    · have h : EncOperands a b := ⟨ha, hb.1, hb.2⟩
      have hodd := encSignificand_odd a b
      have hrep := representable_iff_exists_val hodd (encSign a) (Int.log 2 (val b) - 1)
      have hmax := exceedsMaxf_iff (encSignificand a b) (Int.log 2 (val b) - 1)
      rw [encSignificand_scaled h] at hrep hmax
      rw [signOf_encSign_mul ha] at hrep
      rw [enc_of_operands h]
      unfold encFinish
      split
      · next hgt => exact .rangeOverflow h (hmax.1 hgt)
      · next hle =>
        split
        · next hnone =>
          refine .unrepresentableResult h (not_lt.1 (mt hmax.2 hle)) (mt hrep.2 ?_)
          simpa using hnone
        · next hsome =>
          obtain ⟨hf, hz, -, hv⟩ := pack_spec (encSign a) (encSignificand_pos a b) (by simpa using hsome)
          rw [encSignificand_scaled h, signOf_encSign_mul ha] at hv
          exact .ok h _ hf hz hv
    · rw [enc_of_magnitudeInvalid hb ha]
      exact .invalidMagnitude hb ha
  · rw [enc_of_uncertaintyInvalid hb]
    exact .invalidUncertainty hb

/-- A success of `ENC` is the last of its outcomes. -/
theorem enc_ok {a b : B64} (h : (enc a b).status = 0) :
    EncOperands a b ∧ finite (enc a b).r0 = true ∧ iszero (enc a b).r0 = false ∧
      val (enc a b).r0 = encodedValue (val a) (val b) := by
  have hout := enc_outcome a b
  generalize enc a b = r at h hout
  cases hout with
  | invalidUncertainty | invalidMagnitude | rangeOverflow | unrepresentableResult => exact absurd h (by decide)
  | ok hops y hf hz hv => exact ⟨hops, hf, hz, hv⟩

/-- Settles O24: a success is the outcome `EncOutcome.ok`. -/
theorem encodeOkIsExact : Obligations.EncodeOkIsExact := by
  unfold Obligations.EncodeOkIsExact
  intro s t a b hexec hstatus
  obtain rfl := eq_answer_of_exec hexec
  obtain ⟨-, hf, -, hv⟩ := enc_ok hstatus
  exact ⟨hf, hv⟩

/-- Settles O26: the outcomes exclude one another, and each raises its own code. -/
theorem encodeStatusByExactValue : Obligations.EncodeStatusByExactValue := by
  unfold Obligations.EncodeStatusByExactValue
  intro s t a b hexec
  obtain rfl := eq_answer_of_exec hexec
  have hout := enc_outcome a b
  simp only [State.answer_status, responseOf]
  generalize enc a b = r at hout
  cases hout with
  | invalidUncertainty hb => simp [codeOf, hb]
  | invalidMagnitude hb ha => simp [codeOf, hb, ha]
  | rangeOverflow h hgt => simp [codeOf, h.magnitude_finite, h.uncertainty_finite, h.uncertainty_pos, hgt]
  | unrepresentableResult h hle hnone =>
    simp only [h.magnitude_finite, h.uncertainty_finite, h.uncertainty_pos, hle, hle.not_gt, hnone]
    simp [codeOf]
  | ok h y hf hz hv =>
    have hsome : ∃ p : B64, finite p = true ∧ val p = encodedValue (val a) (val b) := ⟨y, hf, hv⟩
    have hle : encodedMagnitude (val a) (val b) ≤ maxfVal := by
      rw [← abs_encodedValue, ← hv]
      exact abs_val_le_maxfVal hf
    simp [statusOK, h.magnitude_finite, h.uncertainty_finite, h.uncertainty_pos, hle, hle.not_gt, hsome]

/-- The domain of success of 41_encoder.md R72 in closed form. -/
theorem encSignificand_representable {a b : B64} (h : EncOperands a b) (hlow : -1073 ≤ Int.log 2 (val b))
    (hbits : val a ≠ 0 → Int.log 2 |val a| - Int.log 2 (val b) ≤ 51) :
    representable (encSignificand a b) (Int.log 2 (val b) - 1) = true := by
  have hpos := encSignificand_pos a b
  have hscaled := encSignificand_scaled h
  have hlog : Int.log 2 (val b) < 1024 := by
    refine (Int.lt_zpow_iff_log_lt (b := 2) (by norm_num) h.uncertainty_pos).1 ?_
    exact_mod_cast (le_abs_self _).trans_lt (abs_val_lt_two_pow h.uncertainty_finite)
  have h53 := scale_add_bitlen_le hpos
    (hscaled.trans_lt (encodedMagnitude_lt_two_pow (by omega) (abs_lt_of_log_sub_le hbits)))
  have h1024 := scale_add_bitlen_le hpos
    (hscaled.trans_lt (encodedMagnitude_lt_two_pow hlog.le (abs_val_lt_two_pow h.magnitude_finite)))
  rw [representable_odd (encSignificand_odd a b)]
  omega

theorem enc_of_representable {a b : B64} (h : EncOperands a b)
    (hrep : representable (encSignificand a b) (Int.log 2 (val b) - 1) = true) :
    enc a b = .returned (pack (encSign a) (encSignificand a b) (Int.log 2 (val b) - 1)) 0 0 := by
  rw [enc_of_operands h, encFinish_of_representable _ (encSignificand_odd a b) hrep]

/-- Settles O23: on the closed domain the magnitude is representable, so `ENC` packs it. -/
theorem encodeReturnsSourceFormula : Obligations.EncodeReturnsSourceFormula := by
  unfold Obligations.EncodeReturnsSourceFormula
  intro s a b ha hb hpos hlow hbits
  have hops : EncOperands a b := ⟨ha, hb, hpos⟩
  have henc := enc_of_representable hops (encSignificand_representable hops hlow hbits)
  obtain ⟨-, hf, hz, hv⟩ := enc_ok (a := a) (b := b) (by rw [henc]; rfl)
  rw [henc, Response.r0_returned] at hf hz hv
  exact ⟨_, by rw [exec_enc, henc, State.answer_returned], hf, hz, hv⟩

/-- A zero operand of either sign selects cell 0 without a reflection (41_encoder.md R68). -/
theorem enc_of_iszero {a a' : B64} (ha : finite a = true) (ha' : finite a' = true) (hz : iszero a = true)
    (hz' : iszero a' = true) (b : B64) : enc a b = enc a' b := by
  simp [enc, encSign, encCell, ha, ha', hz, hz']

theorem encCell_xor_signMask (a : B64) (e : ℤ) : encCell (a ^^^ signMask) e = encCell a e := by simp [encCell]

theorem encSign_xor_signMask {a : B64} (hz : iszero a = false) : encSign (a ^^^ signMask) = !encSign a := by
  simp [encSign, hz]

/-- The sign reaches the result through the packing alone. -/
theorem encFinish_not (s : Bool) {m : ℕ} (hm : 0 < m) (j : ℤ) :
    (encFinish (!s) m j).status = (encFinish s m j).status ∧
      ((encFinish s m j).status = 0 → (encFinish (!s) m j).r0 = (encFinish s m j).r0 ^^^ signMask) := by
  unfold encFinish
  split
  · exact ⟨rfl, fun h => absurd h (by decide)⟩
  · split
    · exact ⟨rfl, fun h => absurd h (by decide)⟩
    · simp [pack_not s hm j]

theorem enc_xor_signMask {a b : B64} (hz : iszero a = false) :
    (enc (a ^^^ signMask) b).status = (enc a b).status ∧
      ((enc a b).status = 0 → (enc (a ^^^ signMask) b).r0 = (enc a b).r0 ^^^ signMask) := by
  unfold enc
  rw [finite_xor_signMask, encCell_xor_signMask, encSign_xor_signMask hz]
  split
  · exact ⟨rfl, fun h => absurd h (by decide)⟩
  · split
    · exact ⟨rfl, fun h => absurd h (by decide)⟩
    · exact encFinish_not _ (encSignificand_pos a b) _

theorem enc_zero {b : B64} (hb : finite b = true) (hpos : 0 < val b) (hlow : -1073 ≤ Int.log 2 (val b)) :
    enc 0x0000000000000000#64 b = .returned (pow2 (Int.log 2 (val b) - 1)) 0 0 := by
  have hz : iszero 0x0000000000000000#64 = true := by decide
  have hf : finite 0x0000000000000000#64 = true := by decide
  have hops : EncOperands 0x0000000000000000#64 b := ⟨hf, hb, hpos⟩
  have hval := (val_eq_zero_iff hf).2 hz
  have hrep := encSignificand_representable hops hlow (absurd hval)
  have hone : encSignificand 0x0000000000000000#64 b = 1 := by simp [encSignificand, encMultiple_eq, encCell, hz]
  have hsign : encSign 0x0000000000000000#64 = false := by simp [encSign, hz]
  rw [enc_of_representable hops hrep, hone, hsign, pow2_eq_pack]

/-- Settles O28: a zero operand selects cell 0 whatever its sign bit, and for the others the sign bit reaches the sign
bit of the result and nothing else. -/
theorem encodeReflectsSign : Obligations.EncodeReflectsSign := by
  unfold Obligations.EncodeReflectsSign
  refine ⟨?_, ?_, ?_⟩
  · intro s b
    have hzeros : enc 0x8000000000000000#64 b = enc 0x0000000000000000#64 b :=
      enc_of_iszero (by decide) (by decide) (by decide) (by decide) b
    rw [exec_enc, exec_enc, hzeros]
  · intro s b hb hpos hlow
    rw [exec_enc, enc_zero hb hpos hlow, State.answer_returned]
  · intro s t u a b _ hz ht hu
    obtain rfl := eq_answer_of_exec ht
    obtain rfl := eq_answer_of_exec hu
    exact enc_xor_signMask hz

/-- A `DEC` that succeeds returns `δ` from the scale of the lowest set bit (42_decoder.md R82). -/
theorem dec_ok_r0 {y : B64} (h : (dec y).status = 0) : (dec y).r0 = pow2 ((lsb y).2 + 1) := by
  unfold dec at h ⊢
  split at h
  · exact absurd h (by decide)
  · split at h
    · exact absurd h (by decide)
    · next hdom hmax =>
      rw [if_neg hdom, if_neg hmax, decInterval]
      split <;> rfl

/-- The lowest set bit of a result is the bit of weight `δ/2` (41_encoder.md R76 (iii)). -/
theorem lsb_enc {a b : B64} (h : (enc a b).status = 0) :
    lsb (enc a b).r0 = (encSignificand a b, Int.log 2 (val b) - 1) := by
  obtain ⟨hops, hf, hz, hv⟩ := enc_ok h
  refine lsb_eq hf hz (encSignificand_odd a b) ?_
  rw [hv, abs_encodedValue, encSignificand_scaled hops]

/-- Settles O29: the result has the value of the source's formula (`enc_ok`), whose bounds, parity and sign are facts of
exact rationals; its lowest set bit is `lsb_enc`. -/
theorem encodePostconditions : Obligations.EncodePostconditions := by
  unfold Obligations.EncodePostconditions
  intro s t a b hexec hstatus
  obtain rfl := eq_answer_of_exec hexec
  obtain ⟨hops, -, -, hv⟩ := enc_ok hstatus
  have hlsb := lsb_enc hstatus
  simp only [State.answer_r0, responseOf, hv, hlsb, abs_encodedValue, true_and]
  refine ⟨⟨deltaOf_le hops.uncertainty_pos, lt_two_mul_deltaOf _⟩, abs_sub_encodedValue_le _ _,
    abs_sub_encodedValue_eq_iff _ _, oddMultipleOf_encodedValue _ _, encSignificand_floor hops,
    fun hx => encodedValue_neg hx _, fun hx => encodedValue_pos hx _,
    ⟨half_deltaOf_le_encodedMagnitude _ _, half_pos (deltaOf_pos _)⟩, ⟨cell_lower _ _, cell_upper _ _⟩,
    cell_lower_eq_iff _ _, ?_⟩
  intro c u hdec hok
  obtain rfl := eq_answer_of_exec hdec
  rw [State.answer_r0, responseOf, dec_ok_r0 hok, hlsb, sub_add_cancel]

end Sys2Proof.Machine

/-! PROOFS. The ends of the decoder's interval as binary64 values (42_decoder.md R83 to R85): the integer `n ≤ 2^53` of an
end at its scale, and the end farther from zero, which no pattern holds exactly when it is `2^1024`. -/

namespace Sys2Proof.Machine

theorem maxfVal_lt_two_pow : maxfVal < 2 ^ (1024 : ℤ) := by
  rw [maxfVal, show (1024 : ℤ) = ((53 + 971 : ℕ) : ℤ) by norm_num, zpow_natCast, pow_add]
  exact mul_lt_mul_of_pos_right (sub_one_lt _) (by positivity)

/-- An integer of at most `2^53`, itself included, is a binary64 value at every scale that keeps it in range
(40_exponent_extractor.md R56). -/
theorem representable_of_le {n : ℕ} {j : ℤ} (hn : 0 < n) (hle : n ≤ 2 ^ 53) (hj : -1074 ≤ j)
    (hlt : (n : ℚ) * 2 ^ j < 2 ^ (1024 : ℤ)) : representable n j = true := by
  obtain ⟨hsplit, hodd⟩ := ctz_spec hn
  have hpos : 0 < n >>> ctz n := (Nat.odd_iff.2 hodd).pos
  have hbits : n >>> ctz n < 2 ^ 53 := by
    have := Nat.shiftRight_le n (ctz n)
    omega
  have hscaled : ((n >>> ctz n : ℕ) : ℚ) * 2 ^ (j + (ctz n : ℤ)) = n * 2 ^ j := by
    conv_rhs => rw [hsplit]
    rw [zpow_add₀ (by norm_num), zpow_natCast]
    push_cast
    ring
  simp only [representable, hn.ne', if_false, Bool.and_eq_true, decide_eq_true_eq]
  exact ⟨⟨by omega, bitlen_le_iff.2 hbits⟩, scale_add_bitlen_le hpos (hscaled.trans_lt hlt)⟩

/-- The pattern `p` on a result port stands for the end `r` of an interval: a finite pattern of that value, and `+0` when
the end is zero (42_decoder.md R83, R85). -/
structure IsEnd (p : B64) (r : ℚ) : Prop where
  finite : finite p = true
  val_eq : val p = r
  posZero : iszero p = true → p = 0

theorem isEnd_pack (s : Bool) {n : ℕ} {j : ℤ} (hle : n ≤ 2 ^ 53) (hj : -1074 ≤ j)
    (hlt : (n : ℚ) * 2 ^ j < 2 ^ (1024 : ℤ)) : IsEnd (pack s n j) (signOf s * (n * 2 ^ j)) := by
  rcases Nat.eq_zero_or_pos n with rfl | hn
  · have hf : finite (0 : B64) = true := by decide
    have hv : val (0 : B64) = 0 := (val_eq_zero_iff hf).2 (by decide)
    rw [pack_zero]
    exact ⟨hf, by rw [hv, Nat.cast_zero, zero_mul, mul_zero], fun _ => rfl⟩
  · obtain ⟨hf, hz, -, hv⟩ := pack_spec s hn (representable_of_le hn hle hj hlt)
    exact ⟨hf, hv, fun h => absurd h (by simp [hz])⟩

/-- The odd significand and the scale of a finite non-zero pattern: `|y| = m · 2^j` (42_decoder.md R82). -/
structure OddForm (p : B64) (m : ℕ) (j : ℤ) : Prop where
  finite : finite p = true
  odd : m % 2 = 1
  abs_val : |val p| = m * 2 ^ j

theorem oddForm_lsb {p : B64} (hf : finite p = true) (hz : iszero p = false) : OddForm p (lsb p).1 (lsb p).2 := by
  obtain ⟨hv, hodd, -⟩ := lsb_spec hf hz
  exact ⟨hf, hodd, hv⟩

namespace OddForm

variable {p : B64} {m : ℕ} {j : ℤ}

theorem pos (h : OddForm p m j) : 0 < m := by
  have := h.odd
  omega

theorem iszero_eq_false (h : OddForm p m j) : iszero p = false := by
  have hm : (0 : ℚ) < m := by exact_mod_cast h.pos
  rw [← Bool.not_eq_true, ← val_eq_zero_iff h.finite, ← abs_eq_zero, h.abs_val]
  positivity

theorem lsb_eq (h : OddForm p m j) : lsb p = (m, j) :=
  Machine.lsb_eq h.finite h.iszero_eq_false h.odd h.abs_val

/-- The three conditions of 40_exponent_extractor.md R56. -/
theorem bounds (h : OddForm p m j) : -1074 ≤ j ∧ bitlen m ≤ 53 ∧ j + bitlen m ≤ 1024 :=
  (representable_odd h.odd j).1 (representable_of_abs_val h.finite h.odd h.abs_val)

theorem le_scale (h : OddForm p m j) : -1074 ≤ j :=
  h.bounds.1

theorem succ_le (h : OddForm p m j) : m + 1 ≤ 2 ^ 53 := by
  obtain ⟨-, hbits, -⟩ := h.bounds
  exact bitlen_le_iff.1 hbits

theorem scale_le (h : OddForm p m j) : j ≤ 1023 := by
  have := (two_pow_le_of_bitlen h.pos).1
  have := h.bounds
  omega

theorem outerEnd_eq (h : OddForm p m j) : ((m + 1 : ℕ) : ℚ) * 2 ^ j = |val p| + 2 ^ j := by
  rw [h.abs_val]
  push_cast
  ring

/-- `|y|` lies below `2^1024`, and one unit `2^j` does not take it past. -/
theorem outerEnd_le (h : OddForm p m j) : |val p| + 2 ^ j ≤ 2 ^ (1024 : ℤ) := by
  obtain ⟨-, -, htop⟩ := h.bounds
  have hm : ((m + 1 : ℕ) : ℚ) ≤ 2 ^ bitlen m := by exact_mod_cast lt_two_pow_bitlen m
  calc |val p| + 2 ^ j = ((m + 1 : ℕ) : ℚ) * 2 ^ j := h.outerEnd_eq.symm
    _ ≤ 2 ^ bitlen m * 2 ^ j := mul_le_mul_of_nonneg_right hm (by positivity)
    _ = 2 ^ (j + bitlen m) := by rw [zpow_add₀ (by norm_num), zpow_natCast, mul_comm]
    _ ≤ 2 ^ (1024 : ℤ) := zpow_le_zpow_right₀ (by norm_num) htop

/-- Below `2^1024` the end farther from zero is a binary64 value, so `MAXF` bounds it. -/
theorem outerEnd_le_maxfVal (h : OddForm p m j) (hlt : |val p| + 2 ^ j < 2 ^ (1024 : ℤ)) :
    |val p| + 2 ^ j ≤ maxfVal := by
  rw [← h.outerEnd_eq] at hlt ⊢
  have hend := isEnd_pack false h.succ_le h.le_scale hlt
  have hval := hend.val_eq
  rw [signOf_false, one_mul] at hval
  rw [← hval]
  exact (le_abs_self _).trans (abs_val_le_maxfVal hend.finite)

/-- The range check of `DEC` fires exactly when the end farther from zero is `2^1024` (42_decoder.md R84). -/
theorem exceedsMaxf_succ_iff (h : OddForm p m j) :
    exceedsMaxf (m + 1) j = true ↔ |val p| + 2 ^ j = 2 ^ (1024 : ℤ) := by
  rw [exceedsMaxf_iff, h.outerEnd_eq]
  constructor
  · intro hgt
    exact h.outerEnd_le.eq_of_not_lt fun hlt => (h.outerEnd_le_maxfVal hlt).not_gt hgt
  · intro heq
    rw [heq]
    exact maxfVal_lt_two_pow

/-- `δ` is in range when the end farther from zero is (42_decoder.md R85). -/
theorem delta_le (h : OddForm p m j) (hmax : |val p| + 2 ^ j ≤ maxfVal) : j + 1 ≤ 1023 := by
  have hm : (1 : ℚ) ≤ m := by exact_mod_cast h.pos
  have hδ : (2 : ℚ) ^ (j + 1) < 2 ^ (1024 : ℤ) :=
    calc (2 : ℚ) ^ (j + 1) = 1 * 2 ^ j + 2 ^ j := by rw [zpow_add_one₀ (by norm_num)]; ring
      _ ≤ |val p| + 2 ^ j := by rw [h.abs_val]; gcongr
      _ < 2 ^ (1024 : ℤ) := hmax.trans_lt maxfVal_lt_two_pow
  have := (zpow_lt_zpow_iff_right₀ (by norm_num : (1 : ℚ) < 2)).1 hδ
  omega

/-- `y` is an odd multiple `2c + 1` of `δ/2`, for either sign. -/
theorem exists_val_eq (h : OddForm p m j) : ∃ c : ℤ, val p = (2 * c + 1) * 2 ^ j := by
  obtain ⟨k, hk⟩ := Nat.odd_iff.2 h.odd
  rw [val_eq_abs, h.abs_val, hk]
  cases signBit p with
  | false => exact ⟨k, by push_cast [signOf_false]; ring⟩
  | true => exact ⟨-k - 1, by push_cast [signOf_true]; ring⟩

/-- `2^1024 − 2^i` is an integer of `1024 − i` ones at the scale `i`. -/
theorem of_two_pow_sub {i : ℕ} (hf : Machine.finite p = true) (hi : i ≤ 1023) (hv : |val p| = 2 ^ 1024 - 2 ^ i) :
    OddForm p (2 * 2 ^ (1023 - i) - 1) i := by
  have hpos : 0 < 2 ^ (1023 - i) := by positivity
  have hsplit : (2 : ℚ) ^ 1024 = 2 * 2 ^ (1023 - i) * 2 ^ i := by
    rw [mul_assoc, ← pow_add, ← pow_succ', Nat.sub_add_cancel hi]
  refine ⟨hf, by omega, ?_⟩
  rw [hv, hsplit, zpow_natCast, Nat.cast_sub (by omega)]
  push_cast
  ring

/-- The end farther from zero is `2^1024` exactly for the magnitudes that 42_decoder.md R84 lists. -/
theorem outerEnd_eq_two_pow_iff (h : OddForm p m j) :
    |val p| + 2 ^ j = 2 ^ (1024 : ℤ) ↔ ∃ i : ℕ, 971 ≤ i ∧ i ≤ 1023 ∧ |val p| = 2 ^ 1024 - 2 ^ i := by
  constructor
  · intro heq
    have hm : ((m + 1 : ℕ) : ℚ) ≤ 2 ^ (53 : ℤ) := by exact_mod_cast h.succ_le
    have hlow : (2 : ℚ) ^ (1024 : ℤ) ≤ 2 ^ (53 + j) := by
      rw [← heq, ← h.outerEnd_eq, zpow_add₀ (by norm_num)]
      exact mul_le_mul_of_nonneg_right hm (by positivity)
    have hj := (zpow_le_zpow_iff_right₀ (by norm_num : (1 : ℚ) < 2)).1 hlow
    have hj' := h.scale_le
    obtain ⟨i, rfl⟩ := Int.eq_ofNat_of_zero_le (show 0 ≤ j by omega)
    refine ⟨i, by omega, by omega, eq_sub_of_add_eq ?_⟩
    rwa [zpow_natCast, zpow_ofNat] at heq
  · rintro ⟨i, -, hi, hv⟩
    have hij : j = i := congrArg Prod.snd (h.lsb_eq.symm.trans (of_two_pow_sub h.finite hi hv).lsb_eq)
    rw [hij, hv, zpow_natCast, sub_add_cancel, zpow_ofNat]

end OddForm

/-- A zero is none of the magnitudes of 42_decoder.md R84. -/
theorem zero_ne_overflow_magnitude : ¬∃ i : ℕ, 971 ≤ i ∧ i ≤ 1023 ∧ (0 : ℚ) = 2 ^ 1024 - 2 ^ i := by
  rintro ⟨i, -, hi, h⟩
  have hlt : (2 : ℚ) ^ i < 2 ^ 1024 := pow_lt_pow_right₀ (by norm_num) (by omega)
  exact hlt.ne' (sub_eq_zero.1 h.symm)

end Sys2Proof.Machine

/-! PROOFS. The Decoder (42_decoder.md): how `DEC` of any operand ends, and the statements that follow. -/

namespace Sys2Proof.Machine

theorem exec_dec (a b : B64) (s : State) : exec (.dec a b) s = .next (s.answer (dec a)) := exec_eq _ s

/-- The two packed ends are `y − δ/2` and `y + δ/2` in that order, for either sign (42_decoder.md R83). -/
theorem decInterval_eq {a : B64} {m : ℕ} {j : ℤ} (h : OddForm a m j) (hmax : |val a| + 2 ^ j ≤ maxfVal) :
    ∃ lo hi : B64, decInterval (signBit a) m j = .returned (pow2 (j + 1)) lo hi ∧
      IsEnd lo (val a - 2 ^ j) ∧ IsEnd hi (val a + 2 ^ j) := by
  have hm := h.pos
  have hsucc := h.succ_le
  have hinner : ((m - 1 : ℕ) : ℚ) * 2 ^ j = |val a| - 2 ^ j := by
    rw [h.abs_val, Nat.cast_sub hm]
    push_cast
    ring
  have hδ : (0 : ℚ) < 2 ^ j := by positivity
  have hlt := hmax.trans_lt maxfVal_lt_two_pow
  have houterEnd := isEnd_pack (signBit a) hsucc h.le_scale (h.outerEnd_eq.trans_lt hlt)
  have hinnerEnd := isEnd_pack (signBit a) (n := m - 1) (by omega) h.le_scale
    (hinner.trans_lt (by linarith))
  rw [h.outerEnd_eq] at houterEnd
  rw [hinner] at hinnerEnd
  rw [val_eq_abs a]
  cases hs : signBit a with
  | false =>
    rw [hs, signOf_false, one_mul] at houterEnd hinnerEnd
    refine ⟨_, _, rfl, ?_, ?_⟩
    · rwa [signOf_false, one_mul]
    · rwa [signOf_false, one_mul]
  | true =>
    rw [hs, signOf_true] at houterEnd hinnerEnd
    refine ⟨_, _, rfl, ?_, ?_⟩
    · rwa [signOf_true, show -1 * |val a| - 2 ^ j = -1 * (|val a| + 2 ^ j) by ring]
    · rwa [signOf_true, show -1 * |val a| + 2 ^ j = -1 * (|val a| - 2 ^ j) by ring]

/-- The ends of `DEC` by the exact value of its operand, in the order of 60_exceptions.md R126. -/
inductive DecOutcome (a : B64) : Response → Prop where
  | invalid (h : finite a = false ∨ iszero a = true) : DecOutcome a (.raised .zeroOrNonFiniteSignificantValue)
  | rangeOverflow (h : OddForm a (lsb a).1 (lsb a).2) (heq : |val a| + 2 ^ (lsb a).2 = 2 ^ (1024 : ℤ)) :
      DecOutcome a (.raised .rangeOverflow)
  | ok (h : OddForm a (lsb a).1 (lsb a).2) (hmax : |val a| + 2 ^ (lsb a).2 ≤ maxfVal) (lo hi : B64)
      (hlo : IsEnd lo (val a - 2 ^ (lsb a).2)) (hhi : IsEnd hi (val a + 2 ^ (lsb a).2)) :
      DecOutcome a (.returned (pow2 ((lsb a).2 + 1)) lo hi)

/-- All that `DEC` can answer. -/
theorem dec_outcome (a : B64) : DecOutcome a (dec a) := by
  unfold dec
  split
  · next hinvalid => exact .invalid (by simpa [significantInvalid] using hinvalid)
  · next hvalid =>
    obtain ⟨hf, hz⟩ := (significantInvalid_false_iff a).1 (by simpa using hvalid)
    have h := oddForm_lsb hf hz
    split
    · next hgt => exact .rangeOverflow h (h.exceedsMaxf_succ_iff.1 hgt)
    · next hle =>
      have hmax := h.outerEnd_le_maxfVal (h.outerEnd_le.lt_of_ne (mt h.exceedsMaxf_succ_iff.2 hle))
      obtain ⟨lo, hi, heq, hlo, hhi⟩ := decInterval_eq h hmax
      rw [heq]
      exact .ok h hmax lo hi hlo hhi

/-- `r0` of a success holds `δ`, in the range of 42_decoder.md R85. -/
theorem pow2_delta_spec {a : B64} {m : ℕ} {j : ℤ} (h : OddForm a m j) (hmax : |val a| + 2 ^ j ≤ maxfVal) :
    finite (pow2 (j + 1)) = true ∧ iszero (pow2 (j + 1)) = false ∧ val (pow2 (j + 1)) = 2 ^ (j + 1) ∧
      -1073 ≤ j + 1 ∧ j + 1 ≤ 1023 := by
  have hlow := h.le_scale
  have hhigh := h.delta_le hmax
  obtain ⟨hf, hz, -, hv⟩ := pow2_spec (by omega) hhigh
  exact ⟨hf, hz, hv, by omega, hhigh⟩

/-- On the domain of 42_decoder.md R84 the outcome is `DecOutcome.ok`. -/
theorem dec_of_outerEnd_le {a : B64} {m : ℕ} {j : ℤ} (h : OddForm a m j) (hmax : |val a| + 2 ^ j ≤ maxfVal) :
    ∃ lo hi : B64, dec a = .returned (pow2 (j + 1)) lo hi ∧
      IsEnd lo (val a - 2 ^ j) ∧ IsEnd hi (val a + 2 ^ j) := by
  have hj : (lsb a).2 = j := congrArg Prod.snd h.lsb_eq
  have hout := dec_outcome a
  generalize dec a = r at hout
  cases hout with
  | invalid hinvalid => simp [h.finite, h.iszero_eq_false] at hinvalid
  | rangeOverflow _ heq =>
    rw [hj] at heq
    exact absurd heq (hmax.trans_lt maxfVal_lt_two_pow).ne
  | ok _ _ lo hi hlo hhi =>
    rw [hj] at hlo hhi ⊢
    exact ⟨lo, hi, rfl, hlo, hhi⟩

/-- Settles O37: with `y = (2c + 1) · δ/2` the ends are the neighbouring multiples `c · δ` and `(c + 1) · δ`. -/
theorem decodeReturnsDeltaAndInterval : Obligations.DecodeReturnsDeltaAndInterval := by
  unfold Obligations.DecodeReturnsDeltaAndInterval
  intro s a b m j hf hm hv hle
  have h : OddForm a m j := ⟨hf, hm, hv⟩
  have hmax : |val a| + 2 ^ j ≤ maxfVal := by
    rw [← h.outerEnd_eq]
    exact_mod_cast hle
  obtain ⟨lo, hi, hdec, hlo, hhi⟩ := dec_of_outerEnd_le h hmax
  obtain ⟨hδf, hδz, hδv, hδlow, hδhigh⟩ := pow2_delta_spec h hmax
  obtain ⟨c, hc⟩ := h.exists_val_eq
  have hδ : (0 : ℚ) < 2 ^ (j + 1) := by positivity
  have hhalf : (2 : ℚ) ^ (j + 1) = 2 * 2 ^ j := by rw [zpow_add_one₀ (by norm_num), mul_comm]
  have hloMul : val lo = c * 2 ^ (j + 1) := by rw [hlo.val_eq, hc, hhalf]; ring
  have hhiMul : val hi = (c + 1 : ℤ) * 2 ^ (j + 1) := by rw [hhi.val_eq, hc, hhalf]; push_cast; ring
  refine ⟨_, lo, hi, by rw [exec_dec, hdec]; rfl, rfl, hδf, hlo.finite, hhi.finite, hδv, hlo.val_eq, hhi.val_eq,
    ⟨c, hloMul⟩, ⟨c + 1, hhiMul⟩, hlo.posZero, hhi.posZero, ?_, ?_, hδz, hδlow, hδhigh⟩
  · rintro ⟨hzlo, hzhi⟩
    rw [← val_eq_zero_iff hlo.finite, hloMul, mul_eq_zero_iff_right hδ.ne', Int.cast_eq_zero] at hzlo
    rw [← val_eq_zero_iff hhi.finite, hhiMul, mul_eq_zero_iff_right hδ.ne', Int.cast_eq_zero] at hzhi
    omega
  · rintro ⟨hneg, hpos⟩
    have hc0 : c < 0 := by exact_mod_cast neg_of_mul_neg_left (hloMul ▸ hneg) hδ.le
    have hc1 : 0 < c + 1 := by exact_mod_cast pos_of_mul_pos_left (hhiMul ▸ hpos) hδ.le
    omega

/-- Settles O38: the outcomes exclude one another, each raises its own code, and the overflowing magnitudes are those of
`OddForm.outerEnd_eq_two_pow_iff`. -/
theorem decodeStatusClosedForm : Obligations.DecodeStatusClosedForm := by
  unfold Obligations.DecodeStatusClosedForm
  intro s t a b hexec
  obtain rfl := eq_answer_of_exec hexec
  have hout := dec_outcome a
  simp only [State.answer_status, responseOf]
  generalize dec a = r at hout
  cases hout with
  | invalid h =>
    have hnone : ¬(finite a = true ∧ ∃ i : ℕ, 971 ≤ i ∧ i ≤ 1023 ∧ |val a| = 2 ^ 1024 - 2 ^ i) := by
      rintro ⟨hf, hsome⟩
      rw [(val_eq_zero_iff hf).2 (by simpa [hf] using h), abs_zero] at hsome
      exact zero_ne_overflow_magnitude hsome
    have hzero : ¬(finite a = true ∧ iszero a = false) := by
      rcases h with h | h <;> simp [h]
    exact ⟨iff_of_true rfl h, iff_of_false (by decide) hnone,
      iff_of_false (by decide) fun ⟨hf, hz, _⟩ => hzero ⟨hf, hz⟩⟩
  | rangeOverflow h heq =>
    have hsome := h.outerEnd_eq_two_pow_iff.1 heq
    exact ⟨iff_of_false (by decide) (by simp [h.finite, h.iszero_eq_false]), iff_of_true rfl ⟨h.finite, hsome⟩,
      iff_of_false (by decide) fun ⟨_, _, hnone⟩ => hnone hsome⟩
  | ok h hmax lo hi hlo hhi =>
    have hnone := mt h.outerEnd_eq_two_pow_iff.2 (hmax.trans_lt maxfVal_lt_two_pow).ne
    exact ⟨iff_of_false (by simp [statusOK]) (by simp [h.finite, h.iszero_eq_false]),
      iff_of_false (by simp [statusOK]) fun ⟨_, hsome⟩ => hnone hsome,
      iff_of_true rfl ⟨h.finite, h.iszero_eq_false, hnone⟩⟩

/-- Settles O43: the lowest set bit of the encoded value gives `δ` back (`lsb_enc`), and the interval of width `δ` around it
holds `x` (`abs_sub_encodedValue_le`). -/
theorem decodeInvertsEncode : Obligations.DecodeInvertsEncode := by
  unfold Obligations.DecodeInvertsEncode
  intro s t a b c hexec hstatus
  obtain rfl := eq_answer_of_exec hexec
  obtain ⟨hops, hf, hz, hv⟩ := enc_ok hstatus
  refine ⟨_, exec_dec _ c _, ?_⟩
  simp only [State.answer_r0, State.answer_r1, State.answer_r2, State.answer_status, responseOf]
  have hscale : (lsb (enc a b).r0).2 = Int.log 2 (val b) - 1 := congrArg Prod.snd (lsb_enc hstatus)
  have hout := dec_outcome (enc a b).r0
  generalize dec (enc a b).r0 = r at hout
  cases hout with
  | invalid h => simp [hf, hz] at h
  | rangeOverflow h heq => exact ⟨fun h0 => absurd h0 (by decide), fun _ => h.outerEnd_eq_two_pow_iff.1 heq⟩
  | ok h hmax lo hi hlo hhi =>
    obtain ⟨-, -, hδ, -⟩ := pow2_delta_spec h hmax
    have hdist := abs_sub_encodedValue_le (val a) (val b)
    rw [← hv] at hdist
    rw [hscale, ← half_deltaOf] at hlo hhi
    rw [hscale, sub_add_cancel, ← deltaOf] at hδ
    rw [hscale, sub_add_cancel]
    simp only [Response.r0_returned, Response.r1_returned, Response.r2_returned, hδ, hlo.val_eq, hhi.val_eq,
      true_and]
    obtain ⟨hleft, hright⟩ := abs_le.1 hdist
    exact ⟨fun _ => ⟨deltaOf_le hops.uncertainty_pos, lt_two_mul_deltaOf _, hdist, by linarith, by linarith⟩,
      fun hne => absurd rfl hne⟩

/-- Settles O40: the answer of `DEC` is a function of its first operand, which the port `a` alone holds. -/
theorem decodeIgnoresSecondOperand : Obligations.DecodeIgnoresSecondOperand := by
  unfold Obligations.DecodeIgnoresSecondOperand
  constructor
  · intro s a b b'
    rw [exec_dec, exec_dec]
  · intro s b' hop
    obtain ⟨-, hstep, -⟩ := operationSelectChoosesOperation s
    obtain ⟨-, hstep', -⟩ := operationSelectChoosesOperation { s with b := b' }
    refine ⟨_, _, (hstep hop).trans (exec_dec _ _ _), (hstep' hop).trans (exec_dec _ _ _), ?_⟩
    rw [State.outputs_answer, State.outputs_answer]

end Sys2Proof.Machine

/-! PROOFS. A finite non-zero value has one binary64 pattern (30_encoding.md R32, 40_exponent_extractor.md R52). -/

namespace Sys2Proof.Machine

/-- Equal magnitudes have equal scales, as only the least scale has significands without the leading one
(40_exponent_extractor.md R52); this is one direction. -/
theorem sig_scale_le_of_abs_val {p q : B64} (hp : finite p = true) (hq : finite q = true) (h : |val p| = |val q|) :
    (sig q).2 ≤ (sig p).2 := by
  by_contra hlt
  obtain ⟨hp53, hplow, -⟩ := sig_range hp
  obtain ⟨-, -, -, -, hq52⟩ := sig_range hq
  obtain ⟨k, hk⟩ := Int.eq_ofNat_of_zero_le (show 0 ≤ (sig q).2 - (sig p).2 - 1 by omega)
  have hscaled : (sig p).1 = 2 * ((sig q).1 * 2 ^ k) := by
    have h2 : (2 : ℚ) ^ (sig p).2 ≠ 0 := by positivity
    rw [abs_val, abs_val, show (sig q).2 = (sig p).2 + 1 + k by omega, zpow_add₀ (by norm_num),
      zpow_add₀ (by norm_num), zpow_natCast, zpow_one] at h
    have hcast : ((sig p).1 : ℚ) = (2 * ((sig q).1 * 2 ^ k) : ℕ) := by
      push_cast
      exact mul_right_cancel₀ h2 (by rw [h]; ring)
    exact_mod_cast hcast
  have hk1 : (sig q).1 ≤ (sig q).1 * 2 ^ k := Nat.le_mul_of_pos_right _ (by positivity)
  omega

/-- A finite non-zero value has one pattern (30_encoding.md R32). -/
theorem eq_of_val {p q : B64} (hp : finite p = true) (hq : finite q = true) (hz : iszero p = false)
    (h : val p = val q) : p = q := by
  have hzq : iszero q = false := by
    rwa [← Bool.not_eq_true, ← val_eq_zero_iff hq, ← h, val_eq_zero_iff hp, Bool.not_eq_true]
  have hs : signBit p = signBit q := by
    rw [Bool.eq_iff_iff, signBit_true_iff hp hz, signBit_true_iff hq hzq, h]
  have habs : |val p| = |val q| := congrArg _ h
  have hscale : (sig p).2 = (sig q).2 :=
    le_antisymm (sig_scale_le_of_abs_val hq hp habs.symm) (sig_scale_le_of_abs_val hp hq habs)
  refine eq_of_sig hs (Prod.ext ?_ hscale)
  rw [abs_val, abs_val, hscale] at habs
  exact_mod_cast mul_right_cancel₀ (by positivity) habs

end Sys2Proof.Machine

/-! PROOFS. The decimal granularity `γ = 10^⌊log10(δ/2)⌋` of an operand and the integer nearest to `y / γ`
(43_decimal_rounder.md R99 to R103), in exact rationals. -/

namespace Sys2Proof.Machine

theorem abs_roundHalfAway (q : ℚ) : |roundHalfAway q| = ⌊|q| + 1 / 2⌋ := by
  have hnonneg : 0 ≤ ⌊|q| + 1 / 2⌋ := Int.floor_nonneg.2 (by positivity)
  unfold roundHalfAway
  split
  · next h => rw [← abs_of_neg h, abs_neg, abs_of_nonneg hnonneg]
  · next h => rw [← abs_of_nonneg (not_lt.1 h), abs_of_nonneg (by simpa using hnonneg), abs_abs]

theorem one_le_abs_roundHalfAway {q : ℚ} (h : 1 ≤ |q|) : 1 ≤ |roundHalfAway q| := by
  rw [abs_roundHalfAway, Int.le_floor]
  push_cast
  linarith

/-- Rounding a quotient that is not small keeps its sign. -/
theorem roundHalfAway_neg_iff {q : ℚ} (h : 1 ≤ |q|) : roundHalfAway q < 0 ↔ q < 0 := by
  unfold roundHalfAway
  split
  · next hq =>
    rw [abs_of_neg hq] at h
    have hpos : 0 < ⌊-q + 1 / 2⌋ := Int.floor_pos.2 (by linarith)
    exact iff_of_true (neg_neg_of_pos hpos) hq
  · next hq =>
    have hnonneg : 0 ≤ ⌊q + 1 / 2⌋ := Int.floor_nonneg.2 (by linarith)
    exact iff_of_false hnonneg.not_gt hq

/-- At a midpoint the magnitude goes half a unit up (43_decimal_rounder.md R101). -/
theorem abs_roundHalfAway_of_midpoint {q : ℚ} {k : ℤ} (h : |q| = k + 1 / 2) :
    ((|roundHalfAway q| : ℤ) : ℚ) = |q| + 1 / 2 := by
  have hsum : |q| + 1 / 2 = ((k + 1 : ℤ) : ℚ) := by
    rw [h]
    push_cast
    ring
  rw [abs_roundHalfAway, hsum, Int.floor_intCast]

/-- Rounding the magnitude and then putting the sign back is rounding half away from zero (43_decimal_rounder.md R101). -/
theorem withSign_eq_roundHalfAway (s : Bool) {n : ℕ} {q : ℚ} (hq : 0 < q) (hn : (n : ℤ) = ⌊q + 1 / 2⌋) :
    withSign s n = roundHalfAway (signOf s * q) := by
  cases s with
  | false => simp [withSign, roundHalfAway, hq.not_gt, hn]
  | true => simp [withSign, roundHalfAway, hq, hn]

theorem gammaOf_pos (h : ℚ) : 0 < gammaOf h := by
  unfold gammaOf
  positivity

theorem gammaOf_le {h : ℚ} (hh : 0 < h) : gammaOf h ≤ h := by
  simpa [gammaOf] using Int.zpow_log_le_self (b := 10) (by norm_num) hh

theorem lt_ten_mul_gammaOf (h : ℚ) : h < 10 * gammaOf h := by
  have hlt := Int.lt_zpow_succ_log_self (b := 10) (by norm_num) h
  rw [zpow_add_one₀ (by norm_num)] at hlt
  unfold gammaOf
  push_cast at hlt
  linarith

/-- The range of the decimal exponent (43_decimal_rounder.md R99). -/
theorem log10_two_zpow_bounds {j : ℤ} (hlow : -1074 ≤ j) (hhigh : j ≤ 1022) :
    -324 ≤ Int.log 10 ((2 : ℚ) ^ j) ∧ Int.log 10 ((2 : ℚ) ^ j) ≤ 307 := by
  have hpos : (0 : ℚ) < 2 ^ j := by positivity
  have hleast : 2 ^ 1074 ≤ 10 ^ 324 := by decide +kernel
  have hgreatest : 2 ^ 1022 < 10 ^ 308 := by decide +kernel
  have hge : ((10 : ℕ) : ℚ) ^ (-324 : ℤ) ≤ 2 ^ j :=
    calc ((10 : ℕ) : ℚ) ^ (-324 : ℤ) = (10 ^ 324)⁻¹ := by rw [zpow_neg, zpow_ofNat, Nat.cast_ofNat]
      _ ≤ (2 ^ 1074)⁻¹ := inv_anti₀ (by positivity) (by exact_mod_cast hleast)
      _ = 2 ^ (-1074 : ℤ) := by rw [zpow_neg, zpow_ofNat]
      _ ≤ 2 ^ j := zpow_le_zpow_right₀ (by norm_num) hlow
  have hlt : (2 : ℚ) ^ j < ((10 : ℕ) : ℚ) ^ (308 : ℤ) :=
    calc (2 : ℚ) ^ j ≤ 2 ^ (1022 : ℤ) := zpow_le_zpow_right₀ (by norm_num) hhigh
      _ < ((10 : ℕ) : ℚ) ^ (308 : ℤ) := by rw [zpow_ofNat, zpow_ofNat]; exact_mod_cast hgreatest
  have hup := (Int.lt_zpow_iff_log_lt (by norm_num) hpos).1 hlt
  exact ⟨(Int.zpow_le_iff_le_log (by norm_num) hpos).1 hge, by omega⟩

/-- Every `2^j / 10^g` is a product of integer powers of `2^1166 / 10^351` and `2^485 / 10^146`, since
`1166 · 146 − 485 · 351 = 1`. -/
theorem two_zpow_div_ten_zpow (j g : ℤ) :
    (2 : ℚ) ^ j / 10 ^ g =
      (2 ^ 1166 / 10 ^ 351) ^ (146 * j - 485 * g) * (2 ^ 485 / 10 ^ 146) ^ (1166 * g - 351 * j) := by
  simp only [div_zpow, ← zpow_natCast, ← zpow_mul, Nat.cast_ofNat]
  rw [div_mul_div_comm, ← zpow_add₀ (by norm_num), ← zpow_add₀ (by norm_num)]
  congr 2 <;> ring

theorem one_le_two_pow_1166_div : (1 : ℚ) ≤ 2 ^ 1166 / 10 ^ 351 := by
  have h : 10 ^ 351 ≤ 2 ^ 1166 := by decide +kernel
  exact (one_le_div (by positivity)).2 (by exact_mod_cast h)

theorem two_pow_485_div_le_one : (2 : ℚ) ^ 485 / 10 ^ 146 ≤ 1 := by
  have h : 2 ^ 485 ≤ 10 ^ 146 := by decide +kernel
  exact (div_le_one (by positivity)).2 (by exact_mod_cast h)

/-- The largest quotient rounds to the largest coefficient (43_decimal_rounder.md R103). -/
theorem largest_quotient_lt : ((2 : ℚ) ^ 53 - 1) * (10 * (2 ^ 485 / 10 ^ 146)) < 89978275890863918 + 1 / 2 := by
  have h : 2 * (9007199254740991 * (10 * 2 ^ 485)) < 179956551781727837 * 10 ^ 146 := by decide +kernel
  have hq : (89978275890863918 : ℚ) + 1 / 2 = 179956551781727837 / 2 := by norm_num
  have hm : (2 : ℚ) ^ 53 - 1 = 9007199254740991 := by norm_num
  rw [hq, hm, ← mul_div_assoc, ← mul_div_assoc, div_lt_div_iff₀ (by positivity) two_pos, mul_comm _ (2 : ℚ)]
  exact_mod_cast h

/-- No power of two whose exponent is below 1166 in magnitude comes nearer to a power of ten from below than `2^485`
comes to `10^146`: with `2^1166 / 10^351 ≥ 1` and `2^485 / 10^146 < 1`, the signs of the two exponents of
`two_zpow_div_ten_zpow` decide. -/
theorem two_zpow_div_ten_zpow_le {j g : ℤ} (hlow : -1166 < j) (hhigh : j < 1166) (h : (2 : ℚ) ^ j < 10 ^ g) :
    (2 : ℚ) ^ j / 10 ^ g ≤ 2 ^ 485 / 10 ^ 146 := by
  have hdiv : (2 : ℚ) ^ j / 10 ^ g < 1 := (div_lt_one (by positivity)).2 h
  have hC := one_le_two_pow_1166_div
  have hB0 : (0 : ℚ) < 2 ^ 485 / 10 ^ 146 := by positivity
  have hB1 := two_pow_485_div_le_one
  rw [two_zpow_div_ten_zpow] at hdiv ⊢
  have hj : j = 1166 * (146 * j - 485 * g) + 485 * (1166 * g - 351 * j) := by ring
  generalize (2 : ℚ) ^ 1166 / 10 ^ 351 = C at *
  generalize (2 : ℚ) ^ 485 / 10 ^ 146 = B at *
  generalize 146 * j - 485 * g = u at *
  generalize 1166 * g - 351 * j = w at *
  rcases le_or_gt u 0 with hu | hu
  · rcases le_or_gt w 0 with hw | hw
    · have hu0 : u = 0 := by omega
      have hge := one_le_zpow_of_nonpos₀ hB0 hB1 hw
      rw [hu0, zpow_zero, one_mul] at hdiv
      exact absurd hdiv hge.not_gt
    · calc C ^ u * B ^ w ≤ 1 * B ^ w := by gcongr; exact zpow_le_one_of_nonpos₀ hC hu
        _ = B ^ w := one_mul _
        _ ≤ B ^ (1 : ℤ) := zpow_le_zpow_right_of_le_one₀ hB0 hB1 hw
        _ = B := zpow_one B
  · have hw : w ≤ 0 := by omega
    have hge := one_le_mul_of_one_le_of_one_le (one_le_zpow₀ hC hu.le) (one_le_zpow_of_nonpos₀ hB0 hB1 hw)
    exact absurd hdiv hge.not_gt

namespace OddForm

variable {p : B64} {m : ℕ} {j : ℤ}

theorem abs_quotient (h : OddForm p m j) : |val p / gammaOf (2 ^ j)| = m * 2 ^ j / gammaOf (2 ^ j) := by
  rw [abs_div, h.abs_val, abs_of_pos (gammaOf_pos _)]

theorem one_le_abs_quotient (h : OddForm p m j) : 1 ≤ |val p / gammaOf (2 ^ j)| := by
  have hm : (1 : ℚ) ≤ m := by exact_mod_cast h.pos
  rw [h.abs_quotient, one_le_div (gammaOf_pos _)]
  calc gammaOf (2 ^ j) ≤ 1 * 2 ^ j := by rw [one_mul]; exact gammaOf_le (by positivity)
    _ ≤ m * 2 ^ j := by gcongr

/-- The quotient is largest for `m = 2^53 − 1` and `j = 485` (43_decimal_rounder.md R103). -/
theorem abs_quotient_le (h : OddForm p m j) (hj : j ≤ 1022) :
    |val p / gammaOf (2 ^ j)| ≤ (2 ^ 53 - 1) * (10 * (2 ^ 485 / 10 ^ 146)) := by
  have hm : (m : ℚ) ≤ 2 ^ 53 - 1 := by
    rw [le_sub_iff_add_le]
    exact_mod_cast h.succ_le
  have hlow := h.le_scale
  have hten : (10 : ℚ) ^ (Int.log 10 ((2 : ℚ) ^ j) + 1) = 10 * gammaOf (2 ^ j) := by
    rw [zpow_add_one₀ (by norm_num), mul_comm, gammaOf]
  have hle := two_zpow_div_ten_zpow_le (by omega) (by omega) ((lt_ten_mul_gammaOf _).trans_eq hten.symm)
  have hγ := gammaOf_pos (2 ^ j)
  calc |val p / gammaOf (2 ^ j)| = m * (10 * (2 ^ j / 10 ^ (Int.log 10 ((2 : ℚ) ^ j) + 1))) := by
        rw [h.abs_quotient, hten]
        field_simp
    _ ≤ (2 ^ 53 - 1) * (10 * (2 ^ 485 / 10 ^ 146)) := by gcongr

/-- The range of the coefficient (43_decimal_rounder.md R103). -/
theorem coefficient_bounds (h : OddForm p m j) (hj : j ≤ 1022) :
    1 ≤ |roundHalfAway (val p / gammaOf (2 ^ j))| ∧
      |roundHalfAway (val p / gammaOf (2 ^ j))| ≤ 89978275890863918 := by
  have hlt := (h.abs_quotient_le hj).trans_lt largest_quotient_lt
  refine ⟨one_le_abs_roundHalfAway h.one_le_abs_quotient, ?_⟩
  rw [abs_roundHalfAway, Int.floor_le_iff]
  push_cast
  linarith

/-- A quotient halfway between two integers has exactly one factor 2 in its denominator (43_decimal_rounder.md R102). -/
theorem log10_eq_of_midpoint (h : OddForm p m j) {k : ℤ} (hk : |val p / gammaOf (2 ^ j)| = k + 1 / 2) :
    Int.log 10 ((2 : ℚ) ^ j) = j + 1 := by
  have hk0 : (0 : ℚ) < k := by linarith [h.one_le_abs_quotient]
  obtain ⟨n, rfl⟩ := Int.eq_ofNat_of_zero_le (show 0 ≤ k from le_of_lt (by exact_mod_cast hk0))
  rw [h.abs_quotient, div_eq_iff (gammaOf_pos _).ne', gammaOf] at hk
  generalize Int.log 10 ((2 : ℚ) ^ j) = g at hk ⊢
  have hodd : (m : ℚ) * 2 ^ (j + 1) = (2 * n + 1 : ℕ) * (5 ^ g * 2 ^ g) := by
    rw [← mul_zpow, show (5 : ℚ) * 2 = 10 by norm_num, zpow_add_one₀ (by norm_num), ← mul_assoc, hk]
    push_cast
    ring
  have hpow (i : ℕ) : 5 ^ i % 2 = 1 := Nat.odd_iff.1 (Odd.pow (by decide))
  rcases le_total 0 g with hg | hg
  · obtain ⟨i, rfl⟩ := Int.eq_ofNat_of_zero_le hg
    refine (odd_scaled_unique (n := (2 * n + 1) * 5 ^ i) h.odd ?_ ?_).2.symm
    · simp [Nat.mul_mod, Nat.add_mod, hpow]
    · simp only [hodd, zpow_natCast, Nat.cast_mul, Nat.cast_pow, Nat.cast_ofNat, mul_assoc]
  · obtain ⟨i, hi⟩ := Int.eq_ofNat_of_zero_le (show 0 ≤ -g by omega)
    obtain rfl : g = -(i : ℤ) := by omega
    refine (odd_scaled_unique (m := m * 5 ^ i) (n := 2 * n + 1) ?_ (by omega) ?_).2.symm
    · simp [Nat.mul_mod, h.odd, hpow]
    · rw [Nat.cast_mul, mul_right_comm, hodd, zpow_neg, zpow_natCast]
      push_cast
      field_simp

end OddForm

/-- A decimal exponent `j + 1` means `10 · 5^j ≤ 1 < 100 · 5^j`, which leaves `j = −2` alone (43_decimal_rounder.md
R102). -/
theorem eq_neg_two_of_log10_eq {j : ℤ} (h : Int.log 10 ((2 : ℚ) ^ j) = j + 1) : j = -2 := by
  have hpos : (0 : ℚ) < 2 ^ j := by positivity
  have hle := gammaOf_le hpos
  have hlt := lt_ten_mul_gammaOf ((2 : ℚ) ^ j)
  rw [gammaOf, h] at hle hlt
  have hsplit : (10 : ℚ) ^ (j + 1) = 10 * 5 ^ j * 2 ^ j := by
    rw [zpow_add_one₀ (by norm_num), mul_comm, mul_assoc, ← mul_zpow]
    norm_num
  rw [hsplit] at hle hlt
  have hupper : (5 : ℚ) ^ j < 5 ^ (-1 : ℤ) := by
    have := le_of_mul_le_mul_right (by rwa [one_mul] : 10 * (5 : ℚ) ^ j * 2 ^ j ≤ 1 * 2 ^ j) hpos
    rw [zpow_neg_one]
    linarith
  have hlower : (5 : ℚ) ^ (-3 : ℤ) < 5 ^ j := by
    have := lt_of_mul_lt_mul_right (by linarith : 1 * (2 : ℚ) ^ j < 100 * 5 ^ j * 2 ^ j) hpos.le
    rw [show (5 : ℚ) ^ (-3 : ℤ) = 1 / 125 by norm_num]
    linarith
  have h1 := (zpow_lt_zpow_iff_right₀ (by norm_num : (1 : ℚ) < 5)).1 hupper
  have h2 := (zpow_lt_zpow_iff_right₀ (by norm_num : (1 : ℚ) < 5)).1 hlower
  omega

/-- `⌊log10(1/4)⌋ = −1`. -/
theorem log10_quarter : Int.log 10 ((2 : ℚ) ^ (-2 : ℤ)) = -1 :=
  int_log_eq (by norm_num) (by norm_num) (by norm_num)

/-- The quotient is halfway between two integers exactly at `δ/2 = 1/4` (43_decimal_rounder.md R102). -/
theorem OddForm.midpoint_iff {p : B64} {m : ℕ} {j : ℤ} (h : OddForm p m j) :
    (∃ k : ℤ, |val p / gammaOf (2 ^ j)| = k + 1 / 2) ↔ j = -2 := by
  constructor
  · rintro ⟨k, hk⟩
    exact eq_neg_two_of_log10_eq (h.log10_eq_of_midpoint hk)
  · rintro rfl
    obtain ⟨i, hi⟩ := Nat.odd_iff.2 h.odd
    refine ⟨5 * i + 2, ?_⟩
    rw [h.abs_quotient, gammaOf, log10_quarter, hi, show (2 : ℚ) ^ (-2 : ℤ) = 1 / 4 by norm_num, zpow_neg_one]
    push_cast
    ring

end Sys2Proof.Machine

/-! PROOFS. The Decimal Rounder (43_decimal_rounder.md): how `DRND` of any two operands ends, and the statements that
follow. -/

namespace Sys2Proof.Machine

theorem exec_drnd (a b : B64) (s : State) : exec (.drnd a b) s = .next (s.answer (drnd a b)) := exec_eq _ s

namespace OddForm

variable {a b : B64} {m n : ℕ} {i j : ℤ}

theorem scale_unique (h : OddForm a m j) (h' : OddForm a n i) : i = j :=
  congrArg Prod.snd (h'.lsb_eq.symm.trans h.lsb_eq)

/-- `δ` has no binary64 pattern exactly for `|y| = 2^1023` (43_decimal_rounder.md R97). -/
theorem scale_eq_max_iff (h : OddForm a m j) : j = 1023 ↔ |val a| = 2 ^ 1023 := by
  constructor
  · rintro rfl
    have hm : m < 2 := by
      have hbits := h.bounds
      exact bitlen_le_iff.1 (show bitlen m ≤ 1 by omega)
    obtain rfl : m = 1 := by have := h.pos; omega
    rw [h.abs_val, Nat.cast_one, one_mul]
    rfl
  · intro hv
    have h' : OddForm a 1 1023 := ⟨h.finite, rfl, by rw [hv, Nat.cast_one, one_mul]; rfl⟩
    exact (h.scale_unique h').symm

theorem scale_le_of_ne (h : OddForm a m j) (hne : j ≠ 1023) : j ≤ 1022 := by
  have := h.scale_le
  omega

/-- The pattern `pow2(j + 1)` of the `δ` that `y` carries (43_decimal_rounder.md R98). -/
theorem pow2_spec (h : OddForm a m j) (hj : j ≤ 1022) :
    Machine.finite (pow2 (j + 1)) = true ∧ iszero (pow2 (j + 1)) = false ∧ val (pow2 (j + 1)) = 2 ^ (j + 1) := by
  have hlow := h.le_scale
  obtain ⟨hf, hz, -, hv⟩ := Machine.pow2_spec (k := j + 1) (by omega) (by omega)
  exact ⟨hf, hz, hv⟩

theorem eq_pow2_of_val (h : OddForm a m j) (hj : j ≤ 1022) (hb : Machine.finite b = true)
    (hv : val b = 2 ^ (j + 1)) : b = pow2 (j + 1) := by
  obtain ⟨hf, hz, hδ⟩ := h.pow2_spec hj
  exact (eq_of_val hf hb hz (hδ.trans hv.symm)).symm

/-- The operand check in exact values: a power of two of whose half `y` is an odd multiple is the `δ` that `y` carries
(43_decimal_rounder.md R98). -/
theorem eq_pow2_iff (h : OddForm a m j) (hj : j ≤ 1022) :
    b = pow2 (j + 1) ↔
      Machine.finite b = true ∧ (∃ k : ℤ, val b = 2 ^ k) ∧ oddMultipleOf (val a) (val b / 2) := by
  have hhalf (k : ℤ) : (2 : ℚ) ^ k / 2 = 2 ^ (k - 1) := by rw [zpow_sub_one₀ (by norm_num), div_eq_mul_inv]
  constructor
  · rintro rfl
    obtain ⟨hf, -, hv⟩ := h.pow2_spec hj
    obtain ⟨c, hc⟩ := h.exists_val_eq
    exact ⟨hf, ⟨j + 1, hv⟩, 2 * c + 1, ⟨c, rfl⟩, by rw [hv, hhalf, add_sub_cancel_right, hc]; push_cast; rfl⟩
  · rintro ⟨hf, ⟨k, hk⟩, c, hodd, hc⟩
    have h' : OddForm a c.natAbs (k - 1) := by
      refine ⟨h.finite, Nat.odd_iff.1 (Int.natAbs_odd.2 hodd), ?_⟩
      rw [hc, hk, hhalf, abs_mul, abs_of_pos (by positivity : (0 : ℚ) < 2 ^ (k - 1)), Nat.cast_natAbs, Int.cast_abs]
    have hkj := h.scale_unique h'
    exact h.eq_pow2_of_val hj hf (by rw [hk, show k = j + 1 by omega])

/-- The integers of the pseudocode stand for the nearest integer to `y / γ` (43_decimal_rounder.md R100, R101). -/
theorem drndCoefficient_eq (h : OddForm a m j) :
    drndCoefficient (signBit a) m j (ilog10p2 j) = roundHalfAway (val a / gammaOf (2 ^ j)) := by
  obtain ⟨hden, hquot⟩ := drnd_quotient m j
  have hfloor := roundQuotient_floor Config.drndTiePolicy (drndNumerator m j (ilog10p2 j)) hden
  have hm : (0 : ℚ) < m := by exact_mod_cast h.pos
  rw [hquot] at hfloor
  rw [drndCoefficient, withSign_eq_roundHalfAway _ (by positivity) hfloor, val_eq_abs a, h.abs_val, gammaOf,
    ← ilog10p2_eq_log, mul_div_assoc (signOf _)]

/-- The tests of `DRND` after the domain check, and its results by the source's formulas (43_decimal_rounder.md R95). -/
theorem drnd_eq (h : OddForm a m j) (b : B64) :
    drnd a b =
      if j = 1023 then .raised .rangeOverflow
      else if b ≠ pow2 (j + 1) then .raised .invalidUncertainty
      else .returned (BitVec.ofInt 64 (roundHalfAway (val a / gammaOf (2 ^ j))))
        (BitVec.ofInt 64 (Int.log 10 ((2 : ℚ) ^ j))) 0 := by
  have hvalid := (significantInvalid_false_iff a).2 ⟨h.finite, h.iszero_eq_false⟩
  rw [← h.drndCoefficient_eq, ← ilog10p2_eq_log]
  simp [drnd, hvalid, h.lsb_eq]

theorem drnd_of_ne (h : OddForm a m j) (hj : j ≤ 1022) (hb : b ≠ pow2 (j + 1)) :
    drnd a b = .raised .invalidUncertainty := by
  rw [h.drnd_eq, if_neg (by omega), if_pos hb]

/-- On the domain of success both integers fit the ports (43_decimal_rounder.md R99, R103, R104). -/
theorem drnd_of_eq (h : OddForm a m j) (hj : j ≤ 1022) (hb : b = pow2 (j + 1)) :
    ∃ n g : B64, drnd a b = .returned n g 0 ∧
      n.toInt = roundHalfAway (val a / gammaOf (2 ^ j)) ∧ g.toInt = Int.log 10 ((2 : ℚ) ^ j) := by
  obtain ⟨-, hn⟩ := h.coefficient_bounds hj
  obtain ⟨hnlow, hnhigh⟩ := abs_le.1 hn
  obtain ⟨hglow, hghigh⟩ := log10_two_zpow_bounds h.le_scale hj
  refine ⟨_, _, by rw [h.drnd_eq, if_neg (by omega), if_neg (not_not.2 hb)], ?_, ?_⟩
  · exact BitVec.toInt_ofInt_eq_self (by norm_num) (by omega) (by omega)
  · exact BitVec.toInt_ofInt_eq_self (by norm_num) (by omega) (by omega)

end OddForm

/-- The ends of `DRND` by the exact values of its operands, in the order of 60_exceptions.md R126. -/
inductive DrndOutcome (a b : B64) : Response → Prop where
  | invalid (h : finite a = false ∨ iszero a = true) : DrndOutcome a b (.raised .zeroOrNonFiniteSignificantValue)
  | rangeOverflow (m : ℕ) (h : OddForm a m 1023) : DrndOutcome a b (.raised .rangeOverflow)
  | invalidUncertainty (m : ℕ) (j : ℤ) (h : OddForm a m j) (hj : j ≤ 1022) (hb : b ≠ pow2 (j + 1)) :
      DrndOutcome a b (.raised .invalidUncertainty)
  | ok (m : ℕ) (j : ℤ) (h : OddForm a m j) (hj : j ≤ 1022) (hb : b = pow2 (j + 1)) (n g : B64)
      (hn : n.toInt = roundHalfAway (val a / gammaOf (2 ^ j))) (hg : g.toInt = Int.log 10 ((2 : ℚ) ^ j)) :
      DrndOutcome a b (.returned n g 0)

/-- All that `DRND` can answer. -/
theorem drnd_outcome (a b : B64) : DrndOutcome a b (drnd a b) := by
  by_cases hvalid : finite a = true ∧ iszero a = false
  · have h := oddForm_lsb hvalid.1 hvalid.2
    generalize (lsb a).1 = m, (lsb a).2 = j at h
    by_cases hmax : j = 1023
    · rw [h.drnd_eq, if_pos hmax]
      exact .rangeOverflow m (hmax ▸ h)
    · have hj := h.scale_le_of_ne hmax
      by_cases hb : b = pow2 (j + 1)
      · obtain ⟨n, g, hdrnd, hn, hg⟩ := h.drnd_of_eq hj hb
        rw [hdrnd]
        exact .ok m j h hj hb n g hn hg
      · rw [h.drnd_of_ne hj hb]
        exact .invalidUncertainty m j h hj hb
  · rw [← significantInvalid_false_iff, Bool.not_eq_false] at hvalid
    rw [drnd, if_pos hvalid]
    exact .invalid (by simpa [significantInvalid] using hvalid)

/-- A success of `DRND` is the last of its outcomes. -/
theorem drnd_ok {a b : B64} (h : (drnd a b).status = 0) :
    ∃ (m : ℕ) (j : ℤ), OddForm a m j ∧ j ≤ 1022 ∧ val b = 2 ^ (j + 1) ∧
      (drnd a b).r0.toInt = roundHalfAway (val a / gammaOf (2 ^ j)) ∧
      (drnd a b).r1.toInt = Int.log 10 ((2 : ℚ) ^ j) := by
  have hout := drnd_outcome a b
  generalize drnd a b = r at h hout
  cases hout with
  | invalid | rangeOverflow | invalidUncertainty => exact absurd h (by decide)
  | ok m j hodd hj hb n g hn hg =>
    obtain ⟨-, -, hv⟩ := hodd.pow2_spec hj
    exact ⟨m, j, hodd, hj, hb ▸ hv, hn, hg⟩

/-- Settles O45: the value of `b` fixes its pattern (`eq_of_val`), so the operands are those of success. -/
theorem roundReturnsNearestDecimal : Obligations.RoundReturnsNearestDecimal := by
  unfold Obligations.RoundReturnsNearestDecimal
  intro s a b m j ha hm hv hj hb hδ
  have h : OddForm a m j := ⟨ha, hm, hv⟩
  obtain ⟨n, g, hdrnd, hn, hg⟩ := h.drnd_of_eq hj (h.eq_pow2_of_val hj hb hδ)
  exact ⟨n, g, by rw [exec_drnd, hdrnd]; rfl, hg, hn⟩

/-- Settles O46: the outcomes exclude one another, and each raises its own code. -/
theorem roundStatusClosedForm : Obligations.RoundStatusClosedForm := by
  unfold Obligations.RoundStatusClosedForm
  intro s t a b hexec
  obtain rfl := eq_answer_of_exec hexec
  have hout := drnd_outcome a b
  simp only [State.answer_status, responseOf]
  generalize drnd a b = r at hout
  cases hout with
  | invalid h =>
    have hne : ¬(finite a = true ∧ |val a| = 2 ^ 1023) := by
      rintro ⟨hf, hv⟩
      rw [(val_eq_zero_iff hf).2 (by simpa [hf] using h), abs_zero] at hv
      exact absurd hv (pow_pos two_pos _).ne
    have hzero : ¬(finite a = true ∧ iszero a = false) := by
      rcases h with h | h <;> simp [h]
    exact ⟨iff_of_true rfl h, iff_of_false (by decide) hne,
      iff_of_false (by decide) fun ⟨hf, hz, _⟩ => hzero ⟨hf, hz⟩,
      iff_of_false (by decide) fun ⟨hf, hz, _⟩ => hzero ⟨hf, hz⟩⟩
  | rangeOverflow m h =>
    have hmax := h.scale_eq_max_iff.1 rfl
    exact ⟨iff_of_false (by decide) (by simp [h.finite, h.iszero_eq_false]), iff_of_true rfl ⟨h.finite, hmax⟩,
      iff_of_false (by decide) fun ⟨_, _, hne, _⟩ => hne hmax,
      iff_of_false (by decide) fun ⟨_, _, hne, _⟩ => hne hmax⟩
  | invalidUncertainty m j h hj hb =>
    have hne := mt h.scale_eq_max_iff.2 (by omega)
    have hδ := mt (h.eq_pow2_iff hj).2 hb
    exact ⟨iff_of_false (by decide) (by simp [h.finite, h.iszero_eq_false]),
      iff_of_false (by decide) fun ⟨_, hv⟩ => hne hv,
      iff_of_true rfl ⟨h.finite, h.iszero_eq_false, hne, hδ⟩,
      iff_of_false (by decide) fun ⟨_, _, _, hb'⟩ => hδ hb'⟩
  | ok m j h hj hb n g hn hg =>
    have hne := mt h.scale_eq_max_iff.2 (by omega)
    have hδ := (h.eq_pow2_iff hj).1 hb
    exact ⟨iff_of_false (by simp [statusOK]) (by simp [h.finite, h.iszero_eq_false]),
      iff_of_false (by simp [statusOK]) fun ⟨_, hv⟩ => hne hv,
      iff_of_false (by simp [statusOK]) fun ⟨_, _, _, hb'⟩ => hb' hδ,
      iff_of_true rfl ⟨h.finite, h.iszero_eq_false, hne, hδ⟩⟩

/-- Settles O47: below the largest scale the comparison with `pow2(j + 1)` is the only check left. -/
theorem roundAcceptsOnlyCarriedDelta : Obligations.RoundAcceptsOnlyCarriedDelta := by
  unfold Obligations.RoundAcceptsOnlyCarriedDelta
  intro s a b m j ha hm hv hj
  have h : OddForm a m j := ⟨ha, hm, hv⟩
  constructor
  · intro hb
    rw [exec_drnd, h.drnd_of_ne hj hb]
    rfl
  · intro hb
    obtain ⟨n, g, hdrnd, -, -⟩ := h.drnd_of_eq hj hb
    exact ⟨_, by rw [exec_drnd, hdrnd], rfl⟩

/-- Settles O48: `δ = 1/2` is the scale `j = −2` of `OddForm.midpoint_iff`, and there `γ = 1/10`. -/
theorem roundTiesExactlyAtOneHalf : Obligations.RoundTiesExactlyAtOneHalf := by
  unfold Obligations.RoundTiesExactlyAtOneHalf
  intro s t a b hexec hstatus
  obtain rfl := eq_answer_of_exec hexec
  obtain ⟨m, j, h, -, hb, hn, hg⟩ := drnd_ok hstatus
  simp only [State.answer_r0, State.answer_r1, responseOf, hn, hg, hb]
  have hδ : (2 : ℚ) ^ (j + 1) = 1 / 2 ↔ j = -2 := by
    rw [show (1 / 2 : ℚ) = 2 ^ (-1 : ℤ) by norm_num, zpow_right_inj₀ (by norm_num) (by norm_num)]
    omega
  have hquot : |val a| / 10 ^ Int.log 10 ((2 : ℚ) ^ j) = |val a / gammaOf (2 ^ j)| := by
    rw [abs_div, abs_of_pos (gammaOf_pos _), gammaOf]
  rw [hδ, hquot]
  refine ⟨h.midpoint_iff, fun hj => ?_⟩
  obtain ⟨k, hk⟩ := h.midpoint_iff.2 hj
  have hround := abs_roundHalfAway_of_midpoint hk
  rw [← hquot, hj, log10_quarter, ← hj, Int.cast_abs] at hround
  exact ⟨by rw [hj, log10_quarter], by rw [hround, zpow_neg_one, div_inv_eq_mul]⟩

/-- The vector of the largest coefficient, `m = 2^53 − 1` at `j = 485` (43_decimal_rounder.md R103). -/
theorem drnd_largest_coefficient :
    drnd 0x618FFFFFFFFFFFFF#64 0x5E50000000000000#64 = .returned 89978275890863918 145 0 := by
  decide +kernel

/-- Settles O49: the bounds are `OddForm.coefficient_bounds`, and `drnd_largest_coefficient` reaches the upper one. -/
theorem roundCoefficientRange : Obligations.RoundCoefficientRange := by
  unfold Obligations.RoundCoefficientRange
  constructor
  · intro s t a b hexec hstatus
    obtain rfl := eq_answer_of_exec hexec
    obtain ⟨m, j, h, hj, -, hn, -⟩ := drnd_ok hstatus
    obtain ⟨hlow, hhigh⟩ := h.coefficient_bounds hj
    simp only [State.answer_r0, responseOf, hn]
    refine ⟨hlow, hhigh.trans (by norm_num), hhigh, ?_⟩
    rw [roundHalfAway_neg_iff h.one_le_abs_quotient, div_lt_iff₀ (gammaOf_pos _), zero_mul]
  · intro s
    exact ⟨_, _, by rw [exec_drnd, drnd_largest_coefficient]; rfl, by decide⟩

end Sys2Proof.Machine

/-! PROOFS. Significant values (44_properties_and_caveats.md R118, R119): the one `δ` of whose half a pattern is an odd
multiple, its denominator, and what the encoder and the decoder do with it. -/

namespace Sys2Proof.Machine

theorem two_zpow_half (k : ℤ) : (2 : ℚ) ^ k / 2 = 2 ^ (k - 1) := by
  rw [zpow_sub_one₀ (by norm_num), div_eq_mul_inv]

namespace OddForm

variable {p : B64} {m : ℕ} {j : ℤ}

theorem oddMultipleOf (h : OddForm p m j) : Machine.oddMultipleOf (val p) (2 ^ j) := by
  obtain ⟨c, hc⟩ := h.exists_val_eq
  exact ⟨2 * c + 1, odd_two_mul_add_one c, by rw [hc]; push_cast; rfl⟩

theorem of_oddMultipleOf {k : ℤ} (hf : Machine.finite p = true) (h : Machine.oddMultipleOf (val p) (2 ^ k)) :
    ∃ n : ℕ, OddForm p n k := by
  obtain ⟨c, hodd, hc⟩ := h
  refine ⟨c.natAbs, hf, Nat.odd_iff.1 (Int.natAbs_odd.2 hodd), ?_⟩
  rw [hc, abs_mul, abs_of_pos (by positivity : (0 : ℚ) < 2 ^ k), Nat.cast_natAbs, Int.cast_abs]

/-- A pattern is an odd multiple of the weight of its lowest set bit and of no other power of two
(40_exponent_extractor.md R55). -/
theorem oddMultipleOf_iff (h : OddForm p m j) {k : ℤ} : Machine.oddMultipleOf (val p) (2 ^ k) ↔ k = j := by
  constructor
  · intro hk
    obtain ⟨n, hn⟩ := of_oddMultipleOf h.finite hk
    exact h.scale_unique hn
  · rintro rfl
    exact h.oddMultipleOf

end OddForm

/-- An odd integer shares no factor with a power of two, so the fraction is irreducible. -/
theorem den_of_oddMultipleOf_neg {x : ℚ} {i : ℕ} (h : oddMultipleOf x (2 ^ (-(i : ℤ)))) : x.den = 2 ^ i := by
  obtain ⟨c, hodd, rfl⟩ := h
  have hcop : Nat.Coprime c.natAbs ((2 ^ i : ℤ)).natAbs := by
    rw [Int.natAbs_pow]
    exact (Nat.coprime_two_right.2 (Int.natAbs_odd.2 hodd)).pow_right i
  have hden := Rat.den_div_eq_of_coprime (b := 2 ^ i) (by positivity) hcop
  rw [zpow_neg, zpow_natCast, ← div_eq_mul_inv]
  exact_mod_cast hden

theorem den_of_oddMultipleOf_natCast {x : ℚ} {i : ℕ} (h : oddMultipleOf x (2 ^ (i : ℤ))) : x.den = 1 := by
  obtain ⟨c, -, rfl⟩ := h
  have hint : (c : ℚ) * 2 ^ (i : ℤ) = ((c * 2 ^ i : ℤ) : ℚ) := by
    rw [zpow_natCast]
    push_cast
    rfl
  rw [hint, Rat.den_intCast]

/-- Settles O22: `δ/2` is the weight of the lowest set bit (`OddForm.oddMultipleOf_iff`), and the sign of its exponent
decides the denominator. -/
theorem everyPatternCarriesOneDelta : Obligations.EveryPatternCarriesOneDelta := by
  unfold Obligations.EveryPatternCarriesOneDelta
  intro p hf hz
  have h := oddForm_lsb hf hz
  generalize (lsb p).1 = m, (lsb p).2 = j at h
  have hodd := h.oddMultipleOf
  refine ⟨j + 1, ?_, ?_, ?_, ?_⟩
  · rwa [two_zpow_half, add_sub_cancel_right]
  · intro k hk
    rw [two_zpow_half, h.oddMultipleOf_iff] at hk
    omega
  · intro hj
    obtain ⟨i, hi⟩ := Int.eq_ofNat_of_zero_le (show 0 ≤ -j by omega)
    obtain rfl : j = -(i : ℤ) := by omega
    rw [den_of_oddMultipleOf_neg hodd, zpow_add_one₀ (by norm_num), zpow_neg, zpow_natCast]
    push_cast
    field_simp
  · intro hj
    obtain ⟨i, rfl⟩ := Int.eq_ofNat_of_zero_le (show 0 ≤ j by omega)
    exact den_of_oddMultipleOf_natCast hodd

/-- An odd multiple of `δ/2` is the midpoint of its cell: `⌊|x|/δ⌋ = (m − 1)/2` (44_properties_and_caveats.md R118). -/
theorem encodedMagnitude_of_oddMultipleOf {x ε : ℚ} (h : oddMultipleOf x (deltaOf ε / 2)) :
    encodedMagnitude x ε = |x| := by
  obtain ⟨m, hodd, hm⟩ := h
  obtain ⟨k, hk⟩ := Int.natAbs_odd.2 hodd
  have hδ := deltaOf_pos ε
  have habs : |x| = (k + 1 / 2) * deltaOf ε := by
    rw [hm, abs_mul, abs_of_pos (half_pos hδ), ← Int.cast_abs, ← Nat.cast_natAbs, hk]
    push_cast
    ring
  have hfloor : ⌊|x| / deltaOf ε⌋ = k := by
    rw [habs, mul_div_cancel_right₀ _ hδ.ne', Int.floor_eq_iff]
    constructor <;> push_cast <;> linarith
  rw [encodedMagnitude, hfloor, habs]
  push_cast
  ring

theorem encodedValue_of_oddMultipleOf {x ε : ℚ} (h : oddMultipleOf x (deltaOf ε / 2)) : encodedValue x ε = x := by
  rw [encodedValue, encodedMagnitude_of_oddMultipleOf h]
  split
  · next hneg => rw [abs_of_neg hneg, neg_neg]
  · next hnonneg => exact abs_of_nonneg (not_lt.1 hnonneg)

/-- A pattern of the formula's value is the result of `ENC`, bit for bit: no other outcome is open (`enc_outcome`), and the
value has one pattern (`eq_of_val`). -/
theorem enc_of_encodedValue_eq {a b p : B64} (h : EncOperands a b) (hf : finite p = true)
    (hv : val p = encodedValue (val a) (val b)) : enc a b = .returned p 0 0 := by
  have hout := enc_outcome a b
  generalize enc a b = r at hout
  cases hout with
  | invalidUncertainty hb => exact absurd ⟨h.uncertainty_finite, h.uncertainty_pos⟩ hb
  | invalidMagnitude _ ha => exact absurd h.magnitude_finite ha
  | rangeOverflow _ hgt =>
    rw [← abs_encodedValue, ← hv] at hgt
    exact absurd (abs_val_le_maxfVal hf) hgt.not_ge
  | unrepresentableResult _ _ hnone => exact absurd ⟨p, hf, hv⟩ hnone
  | ok _ y hfy hzy hvy => rw [eq_of_val hfy hf hzy (hvy.trans hv.symm)]

theorem enc_of_oddMultipleOf {a b : B64} (h : EncOperands a b) (hodd : oddMultipleOf (val a) (deltaOf (val b) / 2)) :
    enc a b = .returned a 0 0 :=
  enc_of_encodedValue_eq h h.magnitude_finite (encodedValue_of_oddMultipleOf hodd).symm

theorem deltaOf_two_zpow (k : ℤ) : deltaOf (2 ^ k) = 2 ^ k := by
  have hlog : Int.log 2 (((2 : ℕ) : ℚ) ^ k) = k := Int.log_zpow (by norm_num) k
  rw [Nat.cast_ofNat] at hlog
  rw [deltaOf, hlog]

/-- A success of `DEC` is the last of its outcomes. -/
theorem dec_ok {a : B64} (h : (dec a).status = 0) :
    ∃ (m : ℕ) (j : ℤ), OddForm a m j ∧ |val a| + 2 ^ j ≤ maxfVal ∧ (dec a).r0 = pow2 (j + 1) := by
  have hout := dec_outcome a
  generalize dec a = r at h hout
  cases hout with
  | invalid | rangeOverflow => exact absurd h (by decide)
  | ok hform hmax => exact ⟨_, _, hform, hmax, rfl⟩

/-- Settles O30: the operand is the midpoint of its own cell (`enc_of_oddMultipleOf`), and so is a decoded value for the
`δ` that `DEC` returned. -/
theorem encodeKeepsSignificantValues : Obligations.EncodeKeepsSignificantValues := by
  unfold Obligations.EncodeKeepsSignificantValues
  constructor
  · intro s a b ha hb hpos hodd
    rw [exec_enc, enc_of_oddMultipleOf ⟨ha, hb, hpos⟩ hodd, State.answer_returned]
  · intro s t y c hexec hstatus
    obtain rfl := eq_answer_of_exec hexec
    obtain ⟨m, j, h, hmax, hδ⟩ := dec_ok hstatus
    obtain ⟨hf, -, hv, -⟩ := pow2_delta_spec h hmax
    have hops : EncOperands y (pow2 (j + 1)) := ⟨h.finite, hf, by rw [hv]; positivity⟩
    have hodd : oddMultipleOf (val y) (deltaOf (val (pow2 (j + 1))) / 2) := by
      rw [hv, deltaOf_two_zpow, two_zpow_half, add_sub_cancel_right]
      exact h.oddMultipleOf
    rw [State.answer_r0, responseOf, hδ, exec_enc, enc_of_oddMultipleOf hops hodd, State.answer_returned]

/-- Settles O42: a success is the case of `decodeReturnsDeltaAndInterval`, whose `δ` and ends are those of the
operand's odd form. -/
theorem decodePostconditions : Obligations.DecodePostconditions := by
  unfold Obligations.DecodePostconditions
  intro s t a b hexec hstatus
  have hok : (dec a).status = 0 := (congrArg State.status (eq_answer_of_exec hexec)).symm.trans hstatus
  obtain ⟨m, j, h, hmax, -⟩ := dec_ok hok
  obtain ⟨d, lo, hi, hnext, -, -, -, -, hd, hlo, hhi, hloMul, hhiMul, -⟩ :=
    decodeReturnsDeltaAndInterval s a b m j h.finite h.odd h.abs_val (by
      rw [← h.outerEnd_eq] at hmax
      exact_mod_cast hmax)
  obtain rfl := Host.Outcome.next.inj (hexec.symm.trans hnext)
  have hhalf : val d / 2 = 2 ^ j := by rw [hd, two_zpow_half, add_sub_cancel_right]
  have hpos : (0 : ℚ) < 2 ^ j := by positivity
  rw [← hhalf] at hlo hhi hpos
  rw [← hd] at hloMul hhiMul
  exact ⟨⟨j + 1, hd⟩, hhalf ▸ h.oddMultipleOf, hlo, hhi, by linarith, by linarith, by linarith, hloMul, hhiMul⟩

end Sys2Proof.Machine

/-! PROOFS. The pipeline (44_properties_and_caveats.md R110, R114): `DRND` of an encoded value with the `δ` that `DEC`
returned, and how far its decimal lies from the encoder's operand. -/

namespace Sys2Proof.Machine

theorem abs_sub_roundHalfAway_le (q : ℚ) : |q - roundHalfAway q| ≤ 1 / 2 := by
  unfold roundHalfAway
  split
  · have hlow := Int.floor_le (-q + 1 / 2)
    have hup := Int.lt_floor_add_one (-q + 1 / 2)
    rw [abs_le]
    constructor <;> push_cast <;> linarith
  · have hlow := Int.floor_le (q + 1 / 2)
    have hup := Int.lt_floor_add_one (q + 1 / 2)
    rw [abs_le]
    constructor <;> linarith

/-- Rounding on the grid of the multiples of `γ` moves a value by at most `γ/2` (43_decimal_rounder.md R105 (i)). -/
theorem abs_sub_roundHalfAway_mul_le (y : ℚ) {γ : ℚ} (hγ : 0 < γ) : |y - roundHalfAway (y / γ) * γ| ≤ γ / 2 := by
  have hq : y - roundHalfAway (y / γ) * γ = (y / γ - roundHalfAway (y / γ)) * γ := by
    rw [sub_mul, div_mul_cancel₀ y hγ.ne']
  calc |y - roundHalfAway (y / γ) * γ| = |y / γ - roundHalfAway (y / γ)| * γ := by rw [hq, abs_mul, abs_of_pos hγ]
    _ ≤ 1 / 2 * γ := mul_le_mul_of_nonneg_right (abs_sub_roundHalfAway_le _) hγ.le
    _ = γ / 2 := by ring

/-- A power of ten other than 1 has a factor 5, so only `1` is also a power of two. -/
theorem two_zpow_eq_ten_zpow {j g : ℤ} (h : (2 : ℚ) ^ j = 10 ^ g) : j = 0 := by
  have hpow (i : ℕ) : 5 ^ i % 2 = 1 := Nat.odd_iff.1 (Odd.pow (by decide))
  rw [show (10 : ℚ) = 5 * 2 by norm_num, mul_zpow] at h
  rcases le_total 0 g with hg | hg
  · obtain ⟨i, rfl⟩ := Int.eq_ofNat_of_zero_le hg
    obtain ⟨hone, hj⟩ := odd_scaled_unique (m := 1) (n := 5 ^ i) (i := j) (j := i) rfl (hpow i) (by
      rw [Nat.cast_one, one_mul, h, zpow_natCast 5]
      push_cast
      rfl)
    obtain rfl : i = 0 := by simpa using hone.symm
    exact hj
  · obtain ⟨i, hi⟩ := Int.eq_ofNat_of_zero_le (show 0 ≤ -g by omega)
    obtain rfl : g = -(i : ℤ) := by omega
    obtain ⟨hone, hj⟩ := odd_scaled_unique (m := 5 ^ i) (n := 1) (i := j) (j := -i) (hpow i) rfl (by
      rw [h, zpow_neg 5, zpow_natCast 5]
      push_cast
      field_simp)
    obtain rfl : i = 0 := by simpa using hone
    exact hj

/-- `γ = δ/2` exactly at `δ = 2` (43_decimal_rounder.md R99). -/
theorem gammaOf_two_zpow_eq_iff (j : ℤ) : gammaOf (2 ^ j) = 2 ^ j ↔ j = 0 := by
  constructor
  · intro h
    exact two_zpow_eq_ten_zpow h.symm
  · rintro rfl
    simp [gammaOf]

/-- The `δ` that `DEC` returns is the one the operand check of `DRND` wants (43_decimal_rounder.md R98), and the decimal is
the multiple of `γ` nearest to `y`. -/
theorem drnd_of_dec_ok {y : B64} (h : (dec y).status = 0) :
    ∃ (j : ℤ) (n g : B64), val (dec y).r0 = 2 ^ (j + 1) ∧ drnd y (dec y).r0 = .returned n g 0 ∧
      (10 : ℚ) ^ g.toInt = gammaOf (2 ^ j) ∧
      decimalValue n g = roundHalfAway (val y / gammaOf (2 ^ j)) * gammaOf (2 ^ j) := by
  obtain ⟨m, j, hodd, hmax, hδ⟩ := dec_ok h
  obtain ⟨-, -, hv, -⟩ := pow2_delta_spec hodd hmax
  have hj := hodd.delta_le hmax
  obtain ⟨n, g, hdrnd, hn, hg⟩ := hodd.drnd_of_eq (by omega) hδ
  refine ⟨j, n, g, hδ ▸ hv, hdrnd, ?_, ?_⟩
  · rw [hg, gammaOf]
  · rw [decimalValue, hn, hg, gammaOf]

/-- Settles O55: the encoder moves `x` by at most `δ/2` and the rounder `y` by at most `γ/2`, and `γ ≤ δ/2` with equality at
`δ = 2` alone (`gammaOf_two_zpow_eq_iff`). -/
theorem pipelineDisplayBound : Obligations.PipelineDisplayBound := by
  unfold Obligations.PipelineDisplayBound
  intro s t u a b c henc hencOk hdec hdecOk
  obtain ⟨u', hdec', hinv, -⟩ := decodeInvertsEncode s t a b c henc hencOk
  obtain rfl := Host.Outcome.next.inj (hdec.symm.trans hdec')
  obtain ⟨-, -, hε, -, hxy, -⟩ := hinv hdecOk
  obtain rfl := eq_answer_of_exec hdec
  obtain ⟨j, n, g, hδ, hdrnd, hg, hz⟩ := drnd_of_dec_ok hdecOk
  refine ⟨_, exec_drnd _ _ _, ?_⟩
  simp only [State.answer_r0, State.answer_r1, State.answer_status, responseOf] at hε hxy ⊢
  have hhalf : (2 : ℚ) ^ (j + 1) = 2 * 2 ^ j := by rw [zpow_add_one₀ (by norm_num), mul_comm]
  have hpos : (0 : ℚ) < 2 ^ j := by positivity
  have hγ := gammaOf_le hpos
  have hγ0 := gammaOf_pos (2 ^ j)
  have hyz := abs_sub_roundHalfAway_mul_le (val t.r0) hγ0
  have hxz := abs_sub_le (val a) (val t.r0) (decimalValue n g)
  have htwo : (2 : ℚ) * 2 ^ j ≠ 2 ↔ gammaOf (2 ^ j) < 2 ^ j := by
    rw [hγ.lt_iff_ne, ne_eq, ne_eq, gammaOf_two_zpow_eq_iff, mul_eq_left₀ two_ne_zero,
      zpow_eq_one_iff_right₀ zero_le_two (by norm_num)]
  rw [← hz] at hyz
  rw [hδ, hhalf] at hε hxy
  rw [hdrnd, hδ, hhalf, Response.status_returned, Response.r0_returned, Response.r1_returned, hg, htwo]
  refine ⟨rfl, by linarith, by linarith, by linarith, hε, by linarith, ?_⟩
  constructor <;> intro <;> linarith

end Sys2Proof.Machine

/-! PROOFS. The source's worked example, its error cases and its examples of non-recoverability
(44_properties_and_caveats.md R111, R115, R117), evaluated. -/

namespace Sys2Proof.Machine

theorem exec_enc_of_returned {a b y : B64} (h : enc a b = .returned y 0 0) (s : State) :
    exec (.enc a b) s = .next { s with status := 0, r0 := y, r1 := 0, r2 := 0 } := by
  rw [exec_enc, h, State.answer_returned]

theorem exec_dec_of_returned {y d lo hi : B64} (h : dec y = .returned d lo hi) (c : B64) (s : State) :
    exec (.dec y c) s = .next { s with status := 0, r0 := d, r1 := lo, r2 := hi } := by
  rw [exec_dec, h]
  rfl

theorem exec_drnd_of_returned {y d n g : B64} (h : drnd y d = .returned n g 0) (s : State) :
    exec (.drnd y d) s = .next { s with status := 0, r0 := n, r1 := g, r2 := 0 } := by
  rw [exec_drnd, h]
  rfl

/-- `⌊log2 0.05⌋ = −5`. -/
theorem log_val_worked_uncertainty : Int.log 2 (val 0x3FA999999999999A#64) = -5 := by
  decide +kernel

/-- Settles O34: both operations are evaluated on the source's operands; `δ` follows from `⌊log2 ε⌋ = −5`. -/
theorem sourceWorkedExample : Obligations.SourceWorkedExample := by
  unfold Obligations.SourceWorkedExample
  intro s
  have henc : enc 0x3FE4F0307F23CC8E#64 0x3FA999999999999A#64 = .returned 0x3FE4800000000000#64 0 0 := by
    decide +kernel
  have hdec : dec 0x3FE4800000000000#64 =
      .returned 0x3FA0000000000000#64 0x3FE4000000000000#64 0x3FE5000000000000#64 := by
    decide +kernel
  have hy : val 0x3FE4800000000000#64 = 640625 / 1000000 := by decide +kernel
  have hd : val 0x3FA0000000000000#64 = 3125 / 100000 := by decide +kernel
  have hδ : deltaOf (val 0x3FA999999999999A#64) = 3125 / 100000 := by
    rw [deltaOf, log_val_worked_uncertainty]
    norm_num
  have hcell : ⌊|val 0x3FE4F0307F23CC8E#64| / (3125 / 100000)⌋ = 20 := by decide +kernel
  exact ⟨exec_enc_of_returned henc s, fun c => exec_dec_of_returned hdec c s, hy, hd, log_val_worked_uncertainty, hδ,
    by rw [hδ, hcell], by rw [hy]; norm_num⟩

theorem dec_of_iszero {a : B64} (h : iszero a = true) : dec a = .raised .zeroOrNonFiniteSignificantValue := by
  rw [dec, if_pos (by simp [significantInvalid, h])]

/-- Settles O35: an uncertainty of `0` or `−1` is not positive, and `DEC` refuses a zero. -/
theorem sourceErrorCases : Obligations.SourceErrorCases := by
  unfold Obligations.SourceErrorCases
  intro s
  have hzero : ¬(0 : ℚ) < val 0x0000000000000000#64 := by decide +kernel
  have hneg : ¬(0 : ℚ) < val 0xBFF0000000000000#64 := by decide +kernel
  refine ⟨?_, ?_, fun c => ?_⟩
  · rw [exec_enc, enc_of_uncertaintyInvalid fun h => hzero h.2]
    rfl
  · rw [exec_enc, enc_of_uncertaintyInvalid fun h => hneg h.2]
    rfl
  · rw [exec_dec, dec_of_iszero (by decide)]
    rfl

/-- Settles O53: the five operand pairs and the two decimals are evaluated. -/
theorem decimalAloneDeterminesNothing : Obligations.DecimalAloneDeterminesNothing := by
  unfold Obligations.DecimalAloneDeterminesNothing
  intro s
  have h16 : drnd 0x4030000000000000#64 0x4040000000000000#64 = .returned 2 1 0 := by decide +kernel
  have h32 : drnd 0x4040000000000000#64 0x4050000000000000#64 = .returned 3 1 0 := by decide +kernel
  have h64 : drnd 0x4050000000000000#64 0x4060000000000000#64 = .returned 6 1 0 := by decide +kernel
  have h96 : drnd 0x4058000000000000#64 0x4050000000000000#64 = .returned 10 1 0 := by decide +kernel
  have h128 : drnd 0x4060000000000000#64 0x4070000000000000#64 = .returned 1 2 0 := by decide +kernel
  exact ⟨exec_drnd_of_returned h16 s, exec_drnd_of_returned h32 s, exec_drnd_of_returned h64 s,
    exec_drnd_of_returned h96 s, exec_drnd_of_returned h128 s, by decide +kernel, by decide +kernel⟩

end Sys2Proof.Machine

/-! PROOFS. A failed operation (60_exceptions.md R128): what `raise` leaves on the ports. -/

namespace Sys2Proof.Machine

/-- What `raise` does to the state: the kind's code on `status`, `FAIL_RESULT` on the results, the input ports kept. -/
theorem State.answer_raised (s : State) (k : ErrorKind) :
    s.answer (.raised k) = { s with status := codeOf k, r0 := 0, r1 := 0, r2 := 0 } := rfl

/-- A response with a non-zero status can only have been raised: `return` always sets `OK`. -/
theorem Response.exists_eq_raised_of_status_ne_zero {r : Response} (h : r.status ≠ 0) : ∃ k, r = .raised k := by
  cases r with
  | returned x y z => exact absurd rfl h
  | raised k => exact ⟨k, rfl⟩

/-- Settles O16: a non-zero status means that the operation raised a kind, and `State.answer_raised` is all that
`raise` does. -/
theorem failureDoesNothingElse : Obligations.FailureDoesNothingElse := by
  unfold Obligations.FailureDoesNothingElse
  intro i s t hexec hfail
  rw [exec_eq] at hexec
  cases hexec
  obtain ⟨k, hk⟩ := Response.exists_eq_raised_of_status_ne_zero hfail
  rw [hk, State.answer_raised]

end Sys2Proof.Machine

/-! PROOFS. Totality (70_reset_and_hazards.md R145). -/

namespace Sys2Proof.Machine

/-- Settles O8: `exec_eq` and `step_eq` name the next state, the answer of the operation on the ports of `s`. -/
theorem everyOperationAnswers : Obligations.EveryOperationAnswers := by
  unfold Obligations.EveryOperationAnswers
  constructor
  · intro i s
    exact ⟨s.answer (responseOf i), exec_eq i s⟩
  · intro s
    exact ⟨s.answer (responseOf (decode s.presented)), step_eq s⟩

end Sys2Proof.Machine

/-! PROOFS. The encoding (30_encoding.md R33): the triple, its three fields and the operation, each from the other. -/

namespace Sys2Proof

/-- The three fields cover the whole triple: packing them again gives it back. -/
@[simp] theorem packCmd_fields (w : Cmd) : packCmd (opField w) (aField w) (bField w) = w := by
  apply BitVec.eq_of_getLsbD_eq
  intro k hk
  simp only [packCmd, opField, aField, bField, BitVec.getLsbD_append, BitVec.getLsbD_extractLsb']
  by_cases hop : k < 2
  · simp [hop]
  · by_cases ha : k - 2 < 64
    · have hbit : 2 + (k - 2) = k := by omega
      simp [hop, ha, hbit]
    · have hb : k - 2 - 64 < 64 := by omega
      have hbit : 66 + (k - 2 - 64) = k := by omega
      simp [hop, ha, hb, hbit]

/-- What `decodeOp` reads, `encode` writes back. -/
@[simp] theorem encode_decodeOp (op : OpCode) (a b : B64) : encode (decodeOp op a b) = packCmd op a b := by
  obtain rfl | rfl | rfl | rfl := OpCode.cases op <;> rfl

@[simp] theorem encode_decode (w : Cmd) : encode (decode w) = w := by
  rw [decode, encode_decodeOp, packCmd_fields]

theorem decodeNat_of_lt {w : ℕ} (h : w < 2 ^ 130) : decodeNat w = .ok (decode (BitVec.ofNat 130 w)) := by
  rw [decodeNat, if_pos h]

theorem decodeNat_of_le {w : ℕ} (h : 2 ^ 130 ≤ w) : decodeNat w = .error .longerThanCmd := by
  rw [decodeNat, if_neg h.not_gt]

/-- The operation read from a table word is the one its triple decodes to. -/
theorem decode_cmdOfTableWord {nbits w : ℕ} {i : Instr} (h : decodeTableWord nbits w = some i) :
    decode (Machine.cmdOfTableWord nbits w) = i := by
  unfold decodeTableWord at h
  rcases lt_or_ge (w % 2 ^ nbits) (2 ^ 130) with hlt | hge
  · rw [decodeNat_of_lt hlt] at h
    exact Option.some.inj h
  · rw [decodeNat_of_le hge] at h
    exact absurd h (by simp)

/-- Settles O3, by cases on the operation (`decode_encode`). -/
theorem decodeEncodeRoundTrip : Obligations.DecodeEncodeRoundTrip := by
  unfold Obligations.DecodeEncodeRoundTrip
  exact decode_encode

/-- Settles O4: no bit of a triple lies outside its fields (`packCmd_fields`), and a map with a left inverse is
injective. -/
theorem encodeDecodeRoundTrip : Obligations.EncodeDecodeRoundTrip := by
  unfold Obligations.EncodeDecodeRoundTrip
  exact ⟨encode_decode, fun i k h => Function.LeftInverse.injective decode_encode h⟩

/-- Settles O2: the eight words are evaluated. -/
theorem sampleWordsDecode : Obligations.SampleWordsDecode := by
  unfold Obligations.SampleWordsDecode
  decide +kernel

/-- Settles O5: the bound `2^130` is the one test of `decodeNat`. -/
theorem onlyOneLengthDecodes : Obligations.OnlyOneLengthDecodes := by
  unfold Obligations.OnlyOneLengthDecodes
  exact ⟨fun _ h => decodeNat_of_lt h, fun _ h => decodeNat_of_le h⟩

end Sys2Proof

/-! PROOFS. The step and the ports (10_state.md R12, 20_memory.md R23): driving, stepping again, and reset. -/

namespace Sys2Proof.Machine

/-- The block sees on its input ports the triple the host has driven. -/
@[simp] theorem State.drive_presented (s : State) (w : Cmd) : (s.drive w).presented = w := packCmd_fields w

theorem step_drive (s : State) (w : Cmd) : step (s.drive w) = exec (decode w) (s.drive w) := by
  rw [step, State.drive_presented]

/-- An answer leaves the input ports, so the next step answers the same operation in the same way. -/
theorem settled_answer (s : State) : (s.answer (responseOf (decode s.presented))).settled := by
  rw [State.settled, step_eq, State.answer_presented, State.answer_answer]

/-- Settles O6: a step is `exec` by definition, and a presented operation decodes to itself (`decode_encode`). -/
theorem stepRunsPresentedOperation : Obligations.StepRunsPresentedOperation := by
  unfold Obligations.StepRunsPresentedOperation
  constructor
  · rintro s _ rfl
    rfl
  · intro s i
    rw [State.present, step_drive, decode_encode]

/-- Settles O7: the word on the ports decodes to what `decodeTableWord` read, and driving writes input ports only. -/
theorem fetchWordIsRunByNextStep : Obligations.FetchWordIsRunByNextStep := by
  unfold Obligations.FetchWordIsRunByNextStep
  intro s nbits w i h
  exact ⟨by rw [State.withFetchWord, step_drive, decode_cmdOfTableWord h], rfl⟩

/-- Settles O9: the next state is an answer, which writes the output ports only. -/
theorem operationLeavesInputPorts : Obligations.OperationLeavesInputPorts := by
  unfold Obligations.OperationLeavesInputPorts
  intro i s t h
  obtain rfl := eq_answer_of_exec h
  exact ⟨State.answer_op _ _, State.answer_a _ _, State.answer_b _ _⟩

/-- Settles O12: the state after a step is settled (`settled_answer`). -/
theorem evaluationIsIdempotent : Obligations.EvaluationIsIdempotent := by
  unfold Obligations.EvaluationIsIdempotent
  intro s
  exact ⟨_, step_eq s, settled_answer s⟩

/-- At reset the input ports ask for `ENC` with uncertainty zero (41_encoder.md R66). -/
theorem settled_reset : State.reset.settled := by
  have hzero : ¬(finite (0 : B64) = true ∧ 0 < val (0 : B64)) := by
    rw [← uncertaintyInvalid_false_iff]
    decide
  have hdecode : decode State.reset.presented = .enc 0 0 := by
    rw [State.presented, decode_packCmd]
    rfl
  rw [State.settled, step_eq, hdecode, responseOf, enc_of_uncertaintyInvalid hzero]
  rfl

/-- Settles O13: the reset ports are settled, and their values are those of the definition. -/
theorem resetPortsAreSettled : Obligations.ResetPortsAreSettled := by
  unfold Obligations.ResetPortsAreSettled
  exact ⟨settled_reset, rfl, rfl, rfl, rfl⟩

end Sys2Proof.Machine

/-! PROOFS. The legal output ports (30_encoding.md R36, R37, R38): which operation reports which code, and what an `OK`
leaves on the result ports. -/

namespace Sys2Proof.Machine

/-- Code 6 numbers no error kind (30_encoding.md R36). -/
theorem Response.status_ne_six (r : Response) : r.status ≠ 6 := by
  cases r with
  | returned x y z => exact (by decide : statusOK ≠ 6)
  | raised k => cases k <;> decide

/-- Settles O18: `responseOf_status_eq_seven_iff` gives code 7, and each operation's checks name the other codes. -/
theorem statusCodesByOperation : Obligations.StatusCodesByOperation := by
  unfold Obligations.StatusCodesByOperation
  intro i s t hexec
  obtain rfl := eq_answer_of_exec hexec
  rw [State.answer_status]
  refine ⟨responseOf_status_eq_seven_iff i, Response.status_ne_six _, ?_, ?_, ?_⟩
  · rintro x e rfl
    obtain h | h | h | h | h := enc_status x e <;> simp [responseOf, h]
  · rintro y u rfl
    obtain h | h | h := dec_status y <;> simp [responseOf, h]
  · rintro y d rfl
    obtain h | h | h | h := drnd_status y d <;> simp [responseOf, h]

/-- After `OK` the result ports are legal for the operation code `op`. -/
def Response.Legal (op : OpCode) (r : Response) : Prop := r.status = 0 → resultsLegal op r.r0 r.r1 r.r2

/-- A raised kind is no `OK`. -/
theorem Response.legal_raised (op : OpCode) (k : ErrorKind) : (Response.raised k).Legal op := by
  intro h
  cases k <;> exact absurd h (by decide)

theorem enc_legal (a b : B64) : (enc a b).Legal 0b00#2 := by
  have hout := enc_outcome a b
  generalize enc a b = r at hout
  cases hout with
  | invalidUncertainty | invalidMagnitude | rangeOverflow | unrepresentableResult => exact Response.legal_raised _ _
  | ok _ y hf hz _ => exact fun _ => ⟨hf, hz, rfl, rfl⟩

/-- The interval is as wide as `δ = 2 · 2^j`, its ends being `y − 2^j` and `y + 2^j` (42_decoder.md R83, R85). -/
theorem dec_legal (a : B64) : (dec a).Legal 0b01#2 := by
  have hout := dec_outcome a
  generalize dec a = r at hout
  cases hout with
  | invalid | rangeOverflow => exact Response.legal_raised _ _
  | ok h hmax lo hi hlo hhi =>
    intro _
    obtain ⟨hf, -, hv, -⟩ := pow2_delta_spec h hmax
    have hpos : 0 < val (pow2 ((lsb a).2 + 1)) := by
      rw [hv]
      positivity
    have hwidth : val hi = val lo + val (pow2 ((lsb a).2 + 1)) := by
      rw [hlo.val_eq, hhi.val_eq, hv, zpow_add_one₀ (by norm_num)]
      ring
    exact ⟨hf, hlo.finite, hhi.finite, hpos, hwidth, hlo.posZero, hhi.posZero⟩

theorem drnd_legal (a b : B64) : (drnd a b).Legal 0b10#2 := by
  have hout := drnd_outcome a b
  generalize drnd a b = r at hout
  cases hout with
  | invalid | rangeOverflow | invalidUncertainty => exact Response.legal_raised _ _
  | ok m j h hj _ n g hn hg =>
    intro _
    obtain ⟨hlow, hhigh⟩ := h.coefficient_bounds hj
    obtain ⟨hglow, hghigh⟩ := log10_two_zpow_bounds h.le_scale hj
    rw [← hn] at hlow hhigh
    rw [← hg] at hglow hghigh
    obtain ⟨hn1, hn2⟩ := abs_le.1 hhigh
    have hne : n.toInt ≠ 0 := abs_pos.1 (by omega)
    have hgt : -(10 * 2 ^ 53) < n.toInt := by omega
    have hlt : n.toInt < 10 * 2 ^ 53 := by omega
    exact ⟨hne, hgt, hlt, hglow, hghigh, rfl⟩

/-- Whatever code is on port `op`, the response to the operation it selects is legal for it. -/
theorem responseOf_decodeOp_legal (op : OpCode) (a b : B64) : (responseOf (decodeOp op a b)).Legal op := by
  obtain rfl | rfl | rfl | rfl := OpCode.cases op
  · exact enc_legal a b
  · exact dec_legal a
  · exact drnd_legal a b
  · exact Response.legal_raised _ _

/-- Settles O14: the answer to the operation that `op` selects has a numbered code, zero results when a kind was raised,
and the legal results of `responseOf_decodeOp_legal`. -/
theorem everyStepLeavesOutputsLegal : Obligations.EveryStepLeavesOutputsLegal := by
  unfold Obligations.EveryStepLeavesOutputsLegal
  intro s
  refine ⟨_, (step_eq_exec_decodeOp s).trans (exec_eq _ s), Response.status_ne_six _, ?_, ?_, ?_⟩
  · rw [State.answer_status, responseOf_status_eq_seven_iff, decodeOp_wellFormed_eq_false_iff, State.answer_op]
  · intro hfail
    obtain ⟨k, hk⟩ := Response.exists_eq_raised_of_status_ne_zero hfail
    rw [hk]
    exact ⟨rfl, rfl, rfl⟩
  · exact responseOf_decodeOp_legal s.op s.a s.b

/-- Settles O15: the reset state is what a step from it leaves (`settled_reset`). -/
theorem resetOutputsLegal : Obligations.ResetOutputsLegal := by
  unfold Obligations.ResetOutputsLegal
  obtain ⟨t, hstep, hlegal⟩ := everyStepLeavesOutputsLegal State.reset
  obtain rfl := Host.Outcome.next.inj (hstep.symm.trans settled_reset)
  exact hlegal

end Sys2Proof.Machine

/-! PROOFS. Values and their patterns (30_encoding.md R32, 40_exponent_extractor.md R56): which patterns share a value,
and which values have a pattern. -/

namespace Sys2Proof.Machine

/-- Settles O19: a value other than zero has one pattern (`eq_of_val`), and only the zeros have value 0. -/
theorem valueOneToOneExceptZeros : Obligations.ValueOneToOneExceptZeros := by
  unfold Obligations.ValueOneToOneExceptZeros
  refine ⟨?_, (val_eq_zero_iff (by decide)).2 (by decide), (val_eq_zero_iff (by decide)).2 (by decide)⟩
  intro p q hp hq hv
  cases hz : iszero p with
  | false => exact .inl (eq_of_val hp hq hz hv)
  | true =>
    refine .inr ⟨rfl, ?_⟩
    rw [← val_eq_zero_iff hq, ← hv, val_eq_zero_iff hp, hz]

/-- Taking the odd part out of an integer moves its trailing zeros into the scale (40_exponent_extractor.md R56). -/
theorem odd_part_scaled {n : ℕ} (hn : 0 < n) (j : ℤ) :
    ((n >>> ctz n : ℕ) : ℚ) * 2 ^ (j + (ctz n : ℤ)) = n * 2 ^ j := by
  obtain ⟨hsplit, -⟩ := ctz_spec hn
  conv_rhs => rw [hsplit]
  rw [zpow_add₀ (by norm_num), zpow_natCast]
  push_cast
  ring

/-- `representable` looks at the odd part of its integer alone. -/
theorem representable_odd_part {n : ℕ} (hn : 0 < n) (j : ℤ) :
    representable (n >>> ctz n) (j + ctz n) = representable n j := by
  obtain ⟨-, hodd⟩ := ctz_spec hn
  rw [Bool.eq_iff_iff, representable_odd hodd]
  simp [representable, hn.ne', and_assoc]

theorem representable_odd_iff_exists_val {m : ℕ} (hm : m % 2 = 1) (j : ℤ) :
    representable m j = true ↔ ∃ p : B64, finite p = true ∧ val p = m * 2 ^ j := by
  simpa using representable_iff_exists_val hm false j

theorem representable_iff_exists_nonneg_val (n : ℕ) (j : ℤ) :
    representable n j = true ↔ ∃ p : B64, finite p = true ∧ val p = n * 2 ^ j := by
  rcases Nat.eq_zero_or_pos n with rfl | hn
  · have hf : finite 0x0000000000000000#64 = true := by decide
    have hv : val 0x0000000000000000#64 = 0 := (val_eq_zero_iff hf).2 (by decide)
    exact iff_of_true rfl ⟨_, hf, by rw [hv, Nat.cast_zero, zero_mul]⟩
  · obtain ⟨-, hodd⟩ := ctz_spec hn
    rw [← representable_odd_part hn, representable_odd_iff_exists_val hodd, odd_part_scaled hn]

/-- Settles O20: `pack` gives the pattern, and a pattern's odd significand meets the three conditions
(`representable_iff_exists_val`); for an odd significand they are `representable_odd`. -/
theorem representableIffSomePattern : Obligations.RepresentableIffSomePattern := by
  unfold Obligations.RepresentableIffSomePattern
  refine ⟨representable_iff_exists_nonneg_val, fun m j hm => ?_⟩
  rw [← representable_odd_iff_exists_val hm, representable_odd hm]

end Sys2Proof.Machine

/-! PROOFS. The multiplier `78913 / 2^18` (40_exponent_extractor.md R58, G6). `146/485` and `351/1166` enclose `log10 2`
(`two_zpow_div_ten_zpow`), and so closely that the multiplier leads to the same floor on the whole range. -/

namespace Sys2Proof.Machine

/-- An exponent `g` below both `146/485 · j` and `351/1166 · j` is below `j · log10 2`. -/
theorem ten_zpow_le_two_zpow {j g : ℤ} (h1 : 485 * g ≤ 146 * j) (h2 : 1166 * g ≤ 351 * j) : (10 : ℚ) ^ g ≤ 2 ^ j := by
  rw [← one_le_div (by positivity), two_zpow_div_ten_zpow]
  exact one_le_mul_of_one_le_of_one_le (one_le_zpow₀ one_le_two_pow_1166_div (by omega))
    (one_le_zpow_of_nonpos₀ (by positivity) two_pow_485_div_le_one (by omega))

/-- An exponent `g` above both is above `j · log10 2`. -/
theorem two_zpow_le_ten_zpow {j g : ℤ} (h1 : 146 * j ≤ 485 * g) (h2 : 351 * j ≤ 1166 * g) : (2 : ℚ) ^ j ≤ 10 ^ g := by
  rw [← div_le_one (by positivity), two_zpow_div_ten_zpow]
  exact mul_le_one₀ (zpow_le_one_of_nonpos₀ one_le_two_pow_1166_div (by omega)) (by positivity)
    (zpow_le_one₀ (by positivity) two_pow_485_div_le_one (by omega))

/-- A power of two is a power of ten only as `2^0 = 10^0`. -/
theorem two_zpow_eq_ten_zpow_iff (j g : ℤ) : (2 : ℚ) ^ j = 10 ^ g ↔ j = 0 ∧ g = 0 := by
  constructor
  · intro h
    obtain rfl := two_zpow_eq_ten_zpow h
    rw [zpow_zero, eq_comm, zpow_eq_one_iff_right₀ (by norm_num) (by norm_num)] at h
    exact ⟨rfl, h⟩
  · rintro ⟨rfl, rfl⟩
    rfl

/-- The multiplier lies between `351/1166` and `146/485`, and below `|j| = 1100` the error stays under one unit. -/
theorem ilog10p2_eq_multiplier {j : ℤ} (hlow : -1100 ≤ j) (hhigh : j < 1100) : ilog10p2 j = j * 78913 / 2 ^ 18 := by
  obtain ⟨g, hg⟩ : ∃ g, g = j * 78913 / 2 ^ 18 := ⟨_, rfl⟩
  have hle : (10 : ℚ) ^ g ≤ 2 ^ j := ten_zpow_le_two_zpow (by omega) (by omega)
  have hge : (2 : ℚ) ^ j ≤ 10 ^ (g + 1) := two_zpow_le_ten_zpow (by omega) (by omega)
  have hne : (2 : ℚ) ^ j ≠ 10 ^ (g + 1) := by
    rw [ne_eq, two_zpow_eq_ten_zpow_iff]
    omega
  rw [← hg, ilog10p2_eq_log]
  exact int_log_eq (by norm_num) (by exact_mod_cast hle) (by exact_mod_cast hge.lt_of_ne hne)

/-- Settles O21: the four failures of `1233 / 2^12` are evaluated against `ilog10p2_eq_multiplier`. -/
theorem decimalExponentMultiplier : Obligations.DecimalExponentMultiplier := by
  unfold Obligations.DecimalExponentMultiplier
  refine ⟨fun j => ilog10p2_eq_multiplier, ?_⟩
  rintro j (rfl | rfl | rfl | rfl) <;> rw [ilog10p2_eq_multiplier (by norm_num) (by norm_num)] <;> norm_num

end Sys2Proof.Machine

/-! PROOFS. The status of `ENC` in closed form (41_encoder.md R71, R72): which operands overflow and which results need
more bits than a significand has. -/

namespace Sys2Proof.Machine

/-- At a cell boundary the result lies half a `δ` past `|x|` (41_encoder.md R74). -/
theorem encodedMagnitude_of_abs_eq_mul {x ε : ℚ} {k : ℕ} (h : |x| = k * deltaOf ε) :
    encodedMagnitude x ε = |x| + deltaOf ε / 2 := by
  have hmid := encodedMagnitude_sub_half x ε
  rw [h, mul_div_cancel_right₀ _ (deltaOf_pos ε).ne', Int.floor_natCast, Int.cast_natCast, ← h] at hmid
  linarith

/-- The whole cell of `x` lies within a multiple of `δ` above `|x|`. -/
theorem encodedMagnitude_add_half_le {x ε : ℚ} {n : ℕ} (h : |x| < n * deltaOf ε) :
    encodedMagnitude x ε + deltaOf ε / 2 ≤ n * deltaOf ε := by
  have hδ := deltaOf_pos ε
  have hfloor : ⌊|x| / deltaOf ε⌋ < (n : ℤ) := Int.floor_lt.2 (by rw [div_lt_iff₀ hδ]; exact_mod_cast h)
  have hcell : (⌊|x| / deltaOf ε⌋ : ℚ) + 1 ≤ n := by exact_mod_cast hfloor
  have hmid := encodedMagnitude_sub_half x ε
  have := mul_le_mul_of_nonneg_right hcell hδ.le
  linarith

/-- A power of two of at least `δ` is a multiple of `δ`. -/
theorem two_zpow_eq_mul_deltaOf {ε : ℚ} {n : ℤ} (h : Int.log 2 ε ≤ n) : ∃ k : ℕ, (2 : ℚ) ^ n = k * deltaOf ε := by
  obtain ⟨i, hi⟩ := Int.eq_ofNat_of_zero_le (show 0 ≤ n - Int.log 2 ε by omega)
  refine ⟨2 ^ i, ?_⟩
  rw [deltaOf, show n = i + Int.log 2 ε by omega, zpow_add₀ (by norm_num), zpow_natCast]
  push_cast
  rfl

/-- `MAXF` is a multiple of every `δ` of at most `2^971`. -/
theorem maxfVal_eq_mul_deltaOf {ε : ℚ} (h : Int.log 2 ε ≤ 971) : ∃ k : ℕ, maxfVal = k * deltaOf ε := by
  obtain ⟨k, hk⟩ := two_zpow_eq_mul_deltaOf h
  rw [zpow_ofNat] at hk
  refine ⟨(2 ^ 53 - 1) * k, ?_⟩
  rw [maxfVal, hk]
  push_cast
  ring

/-- `MAXF` is one unit `2^971` below `2^1024` (00_scope.md R5). -/
theorem maxfVal_eq_sub : maxfVal = 2 ^ (1024 : ℤ) - 2 ^ (971 : ℤ) := by
  rw [maxfVal, sub_mul, one_mul, ← pow_add, zpow_ofNat, zpow_ofNat]

/-- The range check of `ENC` fires for `|x| = MAXF` at a cell boundary and for nothing else (41_encoder.md R71). -/
theorem maxfVal_lt_encodedMagnitude_iff {x ε : ℚ} (hx : |x| ≤ maxfVal) (hε : Int.log 2 ε ≤ 1023) :
    maxfVal < encodedMagnitude x ε ↔ |x| = maxfVal ∧ Int.log 2 ε ≤ 971 := by
  constructor
  · intro hgt
    have hlog : Int.log 2 ε ≤ 971 := by
      by_contra hbig
      obtain ⟨n, hn⟩ := two_zpow_eq_mul_deltaOf (n := 1024) (ε := ε) (by omega)
      have hcell := encodedMagnitude_add_half_le ((hx.trans_lt maxfVal_lt_two_pow).trans_eq hn)
      have hhalf : (2 : ℚ) ^ (971 : ℤ) ≤ deltaOf ε / 2 := by
        rw [half_deltaOf]
        exact zpow_le_zpow_right₀ (by norm_num) (by omega)
      rw [maxfVal_eq_sub] at hgt
      linarith
    obtain ⟨n, hn⟩ := maxfVal_eq_mul_deltaOf hlog
    refine ⟨hx.eq_of_not_lt fun hlt => ?_, hlog⟩
    rw [hn] at hlt hgt
    exact (encodedMagnitude_lt_of_abs_lt hlt).not_gt hgt
  · rintro ⟨habs, hlog⟩
    obtain ⟨n, hn⟩ := maxfVal_eq_mul_deltaOf hlog
    rw [encodedMagnitude_of_abs_eq_mul (habs.trans hn), ← habs]
    exact lt_add_of_pos_right _ (half_pos (deltaOf_pos ε))

section ValidOperands

variable {a b : B64}

theorem EncOperands.log_bounds (h : EncOperands a b) : -1074 ≤ Int.log 2 (val b) ∧ Int.log 2 (val b) ≤ 1023 := by
  have hz : iszero b = false := by
    rw [← Bool.not_eq_true, ← val_eq_zero_iff h.uncertainty_finite]
    exact h.uncertainty_pos.ne'
  rw [← ilog2_eq_log_val h.uncertainty_finite h.uncertainty_pos]
  obtain ⟨-, -, hbounds⟩ := ilog2_spec h.uncertainty_finite hz
  exact hbounds

theorem exceedsMaxf_encSignificand_iff (h : EncOperands a b) :
    exceedsMaxf (encSignificand a b) (Int.log 2 (val b) - 1) = true ↔
      |val a| = maxfVal ∧ Int.log 2 (val b) ≤ 971 := by
  rw [exceedsMaxf_iff, encSignificand_scaled h]
  exact maxfVal_lt_encodedMagnitude_iff (abs_val_le_maxfVal h.magnitude_finite) h.log_bounds.2

/-- A significand of at most 53 bits has a cell number below `2^52`. -/
theorem abs_val_lt_of_bitlen_le (h : EncOperands a b) (h53 : bitlen (encSignificand a b) ≤ 53) :
    |val a| < 2 ^ (Int.log 2 (val b) + 52) := by
  have hm := bitlen_le_iff.1 h53
  have hfloor := encSignificand_floor h
  have hcell : ⌊|val a| / deltaOf (val b)⌋ < 2 ^ 52 := by omega
  rw [Int.floor_lt, div_lt_iff₀ (deltaOf_pos _), deltaOf] at hcell
  rw [zpow_add₀ (by norm_num), mul_comm]
  exact_mod_cast hcell

/-- The domain of 41_encoder.md R72 in closed form: `encSignificand_representable` and its converse. -/
theorem encSignificand_representable_iff (h : EncOperands a b) :
    representable (encSignificand a b) (Int.log 2 (val b) - 1) = true ↔
      ¬(Int.log 2 (val b) = -1074 ∨ val a ≠ 0 ∧ 52 ≤ Int.log 2 |val a| - Int.log 2 (val b)) := by
  have hlow := h.log_bounds.1
  constructor
  · intro hrep
    obtain ⟨hscale, h53, -⟩ := (representable_odd (encSignificand_odd a b) _).1 hrep
    rintro (hleast | ⟨hne, hbits⟩)
    · omega
    · have hlt := abs_val_lt_of_bitlen_le h h53
      have := (Int.lt_zpow_iff_log_lt (b := 2) (by norm_num) (abs_pos.2 hne)).1 (by exact_mod_cast hlt)
      omega
  · intro hdom
    refine encSignificand_representable h (by omega) fun hne => ?_
    by_contra hbits
    exact hdom (.inr ⟨hne, by omega⟩)

end ValidOperands

/-- The status of the last part of `ENC`: range before representability (41_encoder.md R71, R72). -/
theorem encFinish_status_eq (s : Bool) (m : ℕ) (j : ℤ) :
    (encFinish s m j).status = if exceedsMaxf m j = true then 4 else if representable m j = true then 0 else 5 := by
  unfold encFinish
  split
  · rfl
  · cases representable m j <;> rfl

/-- Settles O25: the two operand checks, then `exceedsMaxf_encSignificand_iff` and
`encSignificand_representable_iff`. -/
theorem encodeStatusClosedForm : Obligations.EncodeStatusClosedForm := by
  unfold Obligations.EncodeStatusClosedForm
  intro s a b
  refine ⟨_, exec_enc a b s, ?_⟩
  rw [State.answer_status]
  by_cases hb : finite b = true ∧ 0 < val b
  · by_cases ha : finite a = true
    · have h : EncOperands a b := ⟨ha, hb.1, hb.2⟩
      rw [if_neg (not_not.2 hb), if_neg (not_not.2 ha), enc_of_operands h, encFinish_status_eq]
      simp only [exceedsMaxf_encSignificand_iff h, encSignificand_representable_iff h, ite_not]
    · rw [if_neg (not_not.2 hb), if_pos ha, enc_of_magnitudeInvalid hb ha]
      rfl
  · rw [if_pos hb, enc_of_uncertaintyInvalid hb]
    rfl

end Sys2Proof.Machine

/-! PROOFS. Ties, order and repetition of `ENC` (41_encoder.md R74, 44_properties_and_caveats.md R116): consequences of
the value of a success alone. -/

namespace Sys2Proof.Machine

/-- Settles O27: a multiple of `δ` is the lower end of its cell (`encodedMagnitude_of_abs_eq_mul`), and zero is the
multiple `0 · δ`. -/
theorem encodeTieGoesAwayFromZero : Obligations.EncodeTieGoesAwayFromZero := by
  unfold Obligations.EncodeTieGoesAwayFromZero
  constructor
  · intro s t a b k hexec hstatus _ htie
    obtain rfl := eq_answer_of_exec hexec
    obtain ⟨-, -, -, hv⟩ := enc_ok hstatus
    rw [State.answer_r0, responseOf, hv, abs_encodedValue, encodedMagnitude_of_abs_eq_mul htie]
    refine ⟨rfl, ?_, fun hx => encodedValue_neg hx _⟩
    intro hneg
    by_contra hx
    exact (encodedValue_pos (not_lt.1 hx) _).not_gt hneg
  · intro s t a b hexec hstatus hzero
    obtain rfl := eq_answer_of_exec hexec
    obtain ⟨-, -, -, hv⟩ := enc_ok hstatus
    have htie : |(0 : ℚ)| = (0 : ℕ) * deltaOf (val b) := by simp
    rw [State.answer_r0, responseOf, hv, hzero, encodedValue, if_neg (lt_irrefl 0), encodedMagnitude_of_abs_eq_mul htie,
      abs_zero, zero_add]

/-- A success of `ENC` writes its result on `r0` alone (41_encoder.md R73). -/
theorem enc_eq_returned {a b : B64} (h : (enc a b).status = 0) : enc a b = .returned (enc a b).r0 0 0 := by
  have hout := enc_outcome a b
  generalize enc a b = r at h hout
  cases hout with
  | invalidUncertainty | invalidMagnitude | rangeOverflow | unrepresentableResult => exact absurd h (by decide)
  | ok => rfl

/-- Settles O31: the result is an odd multiple of `δ/2`, which `ENC` keeps (`enc_of_oddMultipleOf`). -/
theorem encodeIsIdempotentOnItsResult : Obligations.EncodeIsIdempotentOnItsResult := by
  unfold Obligations.EncodeIsIdempotentOnItsResult
  intro s t a b hexec hstatus
  obtain rfl := eq_answer_of_exec hexec
  obtain ⟨hops, hf, -, hv⟩ := enc_ok hstatus
  have hagain : EncOperands (enc a b).r0 b := ⟨hf, hops.uncertainty_finite, hops.uncertainty_pos⟩
  have hkept := enc_of_oddMultipleOf hagain (hv ▸ oddMultipleOf_encodedValue _ _)
  rw [State.answer_r0, responseOf, exec_enc, State.answer_answer, hkept, ← enc_eq_returned hstatus]

theorem encodedMagnitude_le_of_abs_le {x x' : ℚ} (h : |x| ≤ |x'|) (ε : ℚ) :
    encodedMagnitude x ε ≤ encodedMagnitude x' ε := by
  have hδ := deltaOf_pos ε
  have hfloor : ⌊|x| / deltaOf ε⌋ ≤ ⌊|x'| / deltaOf ε⌋ := by gcongr
  have hfloor' : (⌊|x| / deltaOf ε⌋ : ℚ) ≤ ⌊|x'| / deltaOf ε⌋ := by exact_mod_cast hfloor
  unfold encodedMagnitude
  gcongr

/-- The formula is monotone: in the magnitude on each side of zero, and across zero by the signs. -/
theorem encodedValue_le {x x' : ℚ} (h : x ≤ x') (ε : ℚ) : encodedValue x ε ≤ encodedValue x' ε := by
  rcases lt_or_ge x' 0 with hx' | hx'
  · have hx : x < 0 := h.trans_lt hx'
    rw [encodedValue, encodedValue, if_pos hx, if_pos hx', neg_le_neg_iff]
    exact encodedMagnitude_le_of_abs_le (by rw [abs_of_neg hx, abs_of_neg hx']; linarith) ε
  · rcases lt_or_ge x 0 with hx | hx
    · exact (encodedValue_neg hx ε).le.trans (encodedValue_pos hx' ε).le
    · rw [encodedValue, encodedValue, if_neg hx.not_gt, if_neg hx'.not_gt]
      exact encodedMagnitude_le_of_abs_le (by rwa [abs_of_nonneg hx, abs_of_nonneg hx']) ε

/-- Settles O32: both results have the formula's values, which are in order (`encodedValue_le`). -/
theorem encodeMonotoneForOneUncertainty : Obligations.EncodeMonotoneForOneUncertainty := by
  unfold Obligations.EncodeMonotoneForOneUncertainty
  intro s t t' a a' b hexec hexec' hstatus hstatus' hle
  obtain rfl := eq_answer_of_exec hexec
  obtain rfl := eq_answer_of_exec hexec'
  obtain ⟨-, -, -, hv⟩ := enc_ok hstatus
  obtain ⟨-, -, -, hv'⟩ := enc_ok hstatus'
  rw [State.answer_r0, State.answer_r0, responseOf, responseOf, hv, hv']
  exact encodedValue_le hle _

/-- Settles O33: the three operations are evaluated. -/
theorem orderReversalPairs : Obligations.OrderReversalPairs := by
  unfold Obligations.OrderReversalPairs
  intro s
  have ha : enc 0x3FF0000000000000#64 0x3FD999999999999A#64 = .returned 0x3FF2000000000000#64 0 0 := by
    decide +kernel
  have hb : enc 0x3FF4CCCCCCCCCCCD#64 0x3FD999999999999A#64 = .returned 0x3FF6000000000000#64 0 0 := by
    decide +kernel
  have hc : enc 0x3FF0000000000000#64 0x3FF0000000000000#64 = .returned 0x3FF8000000000000#64 0 0 := by
    decide +kernel
  exact ⟨_, _, _, exec_enc_of_returned ha s, exec_enc_of_returned hb s, exec_enc_of_returned hc s, by decide +kernel⟩

end Sys2Proof.Machine

/-! PROOFS. The steps of the source's formula as binary64 values (40_exponent_extractor.md R61). -/

namespace Sys2Proof.Machine

/-- Some finite pattern has the value `r`. -/
def IsBinary64 (r : ℚ) : Prop := ∃ p : B64, finite p = true ∧ val p = r

theorem isBinary64_two_zpow {k : ℤ} (hlow : -1074 ≤ k) (hhigh : k ≤ 1023) : IsBinary64 (2 ^ k) := by
  obtain ⟨hf, -, -, hv⟩ := pow2_spec hlow hhigh
  exact ⟨_, hf, hv⟩

/-- An integer of at most 53 bits, or `2^53`, at a scale that keeps it in range (40_exponent_extractor.md R56). -/
theorem isBinary64_scaled {n : ℕ} {j : ℤ} (hle : n ≤ 2 ^ 53) (hj : -1074 ≤ j) (hlt : (n : ℚ) * 2 ^ j < 2 ^ (1024 : ℤ)) :
    IsBinary64 (n * 2 ^ j) := by
  have hend := isEnd_pack false hle hj hlt
  exact ⟨_, hend.finite, by rw [hend.val_eq, signOf_false, one_mul]⟩

theorem isBinary64_natCast {n : ℕ} (hle : n ≤ 2 ^ 53) : IsBinary64 n := by
  have hlt : (n : ℚ) < 2 ^ (1024 : ℤ) := by
    have h53 : (n : ℚ) ≤ 2 ^ (53 : ℤ) := by exact_mod_cast hle
    exact h53.trans_lt (zpow_lt_zpow_right₀ (by norm_num) (by norm_num))
  have hscaled := isBinary64_scaled (j := 0) hle (by norm_num) (by rwa [zpow_zero, mul_one])
  rwa [zpow_zero, mul_one] at hscaled

theorem isBinary64_abs_val {p : B64} (hf : finite p = true) : IsBinary64 |val p| := by
  obtain ⟨h53, hscale, -⟩ := sig_range hf
  have hlt := abs_val_lt_two_pow hf
  rw [abs_val] at hlt ⊢
  exact isBinary64_scaled h53.le hscale hlt

/-- The leading bit of a magnitude lies within 53 places of its scale. -/
theorem lt_of_two_zpow_le_abs_val {p : B64} {e : ℤ} (hf : finite p = true) (h : (2 : ℚ) ^ e ≤ |val p|) :
    e < 53 + (sig p).2 := by
  obtain ⟨h53, -⟩ := sig_range hf
  have h53' : ((sig p).1 : ℚ) < 2 ^ (53 : ℤ) := by exact_mod_cast h53
  refine (zpow_lt_zpow_iff_right₀ (by norm_num : (1 : ℚ) < 2)).1 ?_
  calc (2 : ℚ) ^ e ≤ (sig p).1 * 2 ^ (sig p).2 := h.trans_eq (abs_val p)
    _ < 2 ^ (53 : ℤ) * 2 ^ (sig p).2 := by gcongr
    _ = 2 ^ (53 + (sig p).2) := (zpow_add₀ (by norm_num) _ _).symm

/-- Dividing by a power of two moves the scale of the significand; a quotient between `1` and `2^1024` stays in
range. -/
theorem isBinary64_abs_val_div {p : B64} {e : ℤ} (hf : finite p = true) (hge : (2 : ℚ) ^ e ≤ |val p|)
    (hlt : |val p| / 2 ^ e < 2 ^ (1024 : ℤ)) : IsBinary64 (|val p| / 2 ^ e) := by
  obtain ⟨h53, -⟩ := sig_range hf
  have he := lt_of_two_zpow_le_abs_val hf hge
  rw [abs_val, mul_div_assoc, ← zpow_sub₀ (by norm_num)] at hlt ⊢
  exact isBinary64_scaled h53.le (by omega) hlt

/-- On a success of `ENC` the cell number `⌊|x|/δ⌋` is below `2^52` and `δ/2` is at least `2^-1074`
(41_encoder.md R72). -/
theorem enc_ok_bounds {a b : B64} (h : (enc a b).status = 0) :
    ∃ k : ℕ, ⌊|val a| / deltaOf (val b)⌋ = k ∧ k < 2 ^ 52 ∧ -1074 ≤ Int.log 2 (val b) - 1 := by
  obtain ⟨hops, hf, -, hv⟩ := enc_ok h
  have hrep : representable (encSignificand a b) (Int.log 2 (val b) - 1) = true :=
    representable_of_abs_val hf (encSignificand_odd a b) (by rw [hv, abs_encodedValue, encSignificand_scaled hops])
  obtain ⟨hscale, h53, -⟩ := (representable_odd (encSignificand_odd a b) _).1 hrep
  have hm := bitlen_le_iff.1 h53
  have hfloor := encSignificand_floor hops
  obtain ⟨k, hk⟩ := Int.eq_ofNat_of_zero_le (show 0 ≤ ⌊|val a| / deltaOf (val b)⌋ by omega)
  exact ⟨k, hk, by omega, hscale⟩

/-- The scaling `|x|/δ`: below `δ` its floor is 0, and from `δ` on it is exact. -/
theorem scaling_isBinary64 {a b : B64} (h : (enc a b).status = 0) :
    |val a| < deltaOf (val b) ∧ ⌊|val a| / deltaOf (val b)⌋ = 0 ∨ IsBinary64 (|val a| / deltaOf (val b)) := by
  obtain ⟨hops, -⟩ := enc_ok h
  obtain ⟨k, hk, hk52, -⟩ := enc_ok_bounds h
  have hδ := deltaOf_pos (val b)
  rcases lt_or_ge |val a| (deltaOf (val b)) with hlt | hge
  · left
    refine ⟨hlt, Int.floor_eq_zero_iff.2 ⟨by positivity, ?_⟩⟩
    rwa [div_lt_one hδ]
  · right
    have hcell : |val a| / deltaOf (val b) < 2 ^ (52 : ℤ) := by
      have hfloor : ⌊|val a| / deltaOf (val b)⌋ < 2 ^ 52 := by omega
      exact_mod_cast Int.floor_lt.1 hfloor
    exact isBinary64_abs_val_div hops.magnitude_finite hge
      (hcell.trans (zpow_lt_zpow_right₀ (by norm_num) (by norm_num)))

/-- Settles O36: with `k = ⌊|x|/δ⌋ < 2^52` every integer step is at most `2^53`, and the final scaling is the magnitude
of the result. -/
theorem encodeStepsAreBinary64 : Obligations.EncodeStepsAreBinary64 := by
  unfold Obligations.EncodeStepsAreBinary64
  intro s t a b hexec hstatus
  obtain rfl := eq_answer_of_exec hexec
  obtain ⟨hops, hf, -, hv⟩ := enc_ok hstatus
  obtain ⟨-, hhigh⟩ := hops.log_bounds
  obtain ⟨k, hk, hk52, hlow⟩ := enc_ok_bounds hstatus
  have hscaling := scaling_isBinary64 hstatus
  have hmagnitude := isBinary64_abs_val hf
  rw [hv, abs_encodedValue, encodedMagnitude] at hmagnitude
  refine ⟨isBinary64_two_zpow (by omega) hhigh, ?_, hscaling, ?_, ?_, ?_, hmagnitude⟩
  · rw [half_deltaOf]
    exact isBinary64_two_zpow hlow (by omega)
  · rw [hk]
    exact isBinary64_natCast (by omega)
  · rw [hk]
    exact_mod_cast isBinary64_natCast (n := 2 * k) (by omega)
  · rw [hk]
    exact_mod_cast isBinary64_natCast (n := 2 * k + 1) (by omega)

end Sys2Proof.Machine

/-! PROOFS. The fields of the operands that `DEC` refuses for range, the other sign, and the failed result fed on
(42_decoder.md R83, R84, 70_reset_and_hazards.md R144). -/

namespace Sys2Proof.Machine

theorem abs_val_of_expField_max {p : B64} (h : expField p = 2046) :
    |val p| = ((2 ^ 52 + fracField p : ℕ) : ℚ) * 2 ^ 971 := by
  rw [abs_val, sig, if_neg (by omega), h]
  norm_num

/-- Only the largest exponent field has magnitudes from `2^1023` on (30_encoding.md R32). -/
theorem expField_eq_max {p : B64} (hf : finite p = true) (h : (2 : ℚ) ^ (1023 : ℤ) ≤ |val p|) : expField p = 2046 := by
  have hle := lt_of_two_zpow_le_abs_val hf h
  have hlt := expField_lt p
  rw [finite_iff] at hf
  unfold sig at hle
  split at hle <;> dsimp only at hle <;> omega

/-- With the largest exponent field, `2^1024 − 2^(971 + k)` is the fraction `2^52 − 2^k` (42_decoder.md R84). -/
theorem abs_val_eq_overflow_iff {p : B64} (h : expField p = 2046) {k : ℕ} (hk : k ≤ 52) :
    |val p| = 2 ^ 1024 - 2 ^ (971 + k) ↔ fracField p = 2 ^ 52 - 2 ^ k := by
  have hk52 : 2 ^ k ≤ 2 ^ 52 := Nat.pow_le_pow_right (by norm_num) hk
  have hunit : (2 : ℚ) ^ 1024 - 2 ^ (971 + k) = ((2 ^ 53 - 2 ^ k : ℕ) : ℚ) * 2 ^ 971 := by
    rw [Nat.cast_sub (by omega), sub_mul, Nat.cast_pow, Nat.cast_pow, Nat.cast_ofNat, ← pow_add, ← pow_add, add_comm k]
  rw [abs_val_of_expField_max h, hunit, mul_left_inj' (by positivity), Nat.cast_inj]
  omega

/-- Settles O39: the magnitudes of R84 are at least `2^1023`, so their exponent field is 2046, and the fraction field
decides (`abs_val_eq_overflow_iff`). -/
theorem decodeOverflowPatterns : Obligations.DecodeOverflowPatterns := by
  unfold Obligations.DecodeOverflowPatterns
  intro s t a b hexec
  obtain ⟨-, hrange, -⟩ := decodeStatusClosedForm s t a b hexec
  rw [hrange]
  constructor
  · rintro ⟨hf, i, hlow, hhigh, hv⟩
    obtain ⟨k, rfl⟩ := Nat.exists_eq_add_of_le hlow
    have hpow : (2 : ℚ) ^ (971 + k) ≤ 2 ^ 1023 := pow_le_pow_right₀ (by norm_num) hhigh
    have hdouble : (2 : ℚ) ^ 1024 = 2 ^ 1023 + 2 ^ 1023 := by rw [← two_mul, ← pow_succ']
    have hge : (2 : ℚ) ^ 1023 ≤ 2 ^ 1024 - 2 ^ (971 + k) := by
      rw [le_sub_iff_add_le, hdouble]
      gcongr
    have hmax := expField_eq_max hf (by rwa [hv, zpow_ofNat])
    exact ⟨hmax, k, by omega, (abs_val_eq_overflow_iff hmax (by omega)).1 hv⟩
  · rintro ⟨hmax, k, hk, hfrac⟩
    exact ⟨by rw [finite_iff]; omega, 971 + k, by omega, by omega, (abs_val_eq_overflow_iff hmax hk).2 hfrac⟩

theorem signOf_not (s : Bool) : signOf (!s) = -signOf s := by cases s <;> simp

@[simp] theorem val_xor_signMask (p : B64) : val (p ^^^ signMask) = -val p := by
  rw [val_eq_sig, val_eq_sig, signBit_xor_signMask, sig_xor_signMask, signOf_not, neg_mul]

@[simp] theorem lsb_xor_signMask (p : B64) : lsb (p ^^^ signMask) = lsb p := by
  rw [lsb, sig_xor_signMask, ← lsb]

@[simp] theorem significantInvalid_xor_signMask (p : B64) :
    significantInvalid (p ^^^ signMask) = significantInvalid p := by simp [significantInvalid]

@[simp] theorem val_zero : val 0#64 = 0 := (val_eq_zero_iff (by decide)).2 (by decide)

/-- Packing with the other sign negates the value, a zero being `+0` both times (40_exponent_extractor.md R57). -/
theorem val_pack_not (s : Bool) (n : ℕ) (j : ℤ) : val (pack (!s) n j) = -val (pack s n j) := by
  rcases Nat.eq_zero_or_pos n with rfl | hn
  · simp
  · rw [pack_not s hn, val_xor_signMask]

/-- `q` is the response to the negated operand of `r`: the interval negated and swapped. -/
structure Response.IsMirror (q r : Response) : Prop where
  status_eq : q.status = r.status
  r0_eq : q.r0 = r.r0
  val_lo : val q.r1 = -val r.r2
  val_hi : val q.r2 = -val r.r1

theorem Response.isMirror_raised (k : ErrorKind) : (Response.raised k).IsMirror (.raised k) :=
  ⟨rfl, rfl, by simp, by simp⟩

/-- The inner end is the lower one for one sign and the upper one for the other (42_decoder.md R83). -/
theorem decInterval_not (s : Bool) (m : ℕ) (j : ℤ) : (decInterval (!s) m j).IsMirror (decInterval s m j) := by
  cases s with
  | false => exact ⟨rfl, rfl, val_pack_not false _ j, val_pack_not false _ j⟩
  | true => exact ⟨rfl, rfl, val_pack_not true _ j, val_pack_not true _ j⟩

theorem dec_xor_signMask (a : B64) : (dec (a ^^^ signMask)).IsMirror (dec a) := by
  unfold dec
  rw [significantInvalid_xor_signMask, lsb_xor_signMask, signBit_xor_signMask]
  split
  · exact Response.isMirror_raised _
  · split
    · exact Response.isMirror_raised _
    · exact decInterval_not _ _ _

/-- Settles O41: the sign bit reaches `DEC` through the two ends alone (`dec_xor_signMask`). -/
theorem decodeReflectsSign : Obligations.DecodeReflectsSign := by
  unfold Obligations.DecodeReflectsSign
  intro s t u a b ht hu
  obtain rfl := eq_answer_of_exec ht
  obtain rfl := eq_answer_of_exec hu
  obtain ⟨hstatus, hδ, hlo, hhi⟩ := dec_xor_signMask a
  exact ⟨hstatus, hδ, hlo, hhi⟩

/-- Settles O44: a failure leaves zero on `r0` (`failureDoesNothingElse`), and `DEC` refuses a zero. -/
theorem uncheckedFailureSurfacesAtDecode : Obligations.UncheckedFailureSurfacesAtDecode := by
  unfold Obligations.UncheckedFailureSurfacesAtDecode
  intro s t a b c hexec hunusable
  have hfail : t.status ≠ 0 := by
    rintro hok
    simp [State.usable, hok, statusOK] at hunusable
  have hzero : t.r0 = 0 := congrArg State.r0 (failureDoesNothingElse _ _ _ hexec hfail)
  rw [hzero, exec_dec, dec_of_iszero (by decide), State.answer_raised]
  rfl

end Sys2Proof.Machine

/-! PROOFS. The distance of the decimal from `y` (43_decimal_rounder.md R105): when rounding moves a quotient by a whole
half, and when `γ` divides `δ/2`. -/

namespace Sys2Proof.Machine

/-- The distance that rounding moves a quotient is that of its magnitude. -/
theorem abs_sub_roundHalfAway (q : ℚ) : |q - roundHalfAway q| = |(|q| - ⌊|q| + 1 / 2⌋)| := by
  rcases lt_or_ge q 0 with hq | hq
  · rw [roundHalfAway, if_pos hq, abs_of_neg hq, ← abs_neg]
    push_cast
    ring_nf
  · rw [roundHalfAway, if_neg hq.not_gt, abs_of_nonneg hq]

/-- Rounding moves a quotient by a whole half exactly at a midpoint (43_decimal_rounder.md R105 (i)). -/
theorem abs_sub_roundHalfAway_eq_iff (q : ℚ) : |q - roundHalfAway q| = 1 / 2 ↔ ∃ k : ℤ, |q| = k + 1 / 2 := by
  rw [abs_sub_roundHalfAway]
  constructor
  · intro h
    rcases (abs_eq (by norm_num)).1 h with h | h
    · exact ⟨⌊|q| + 1 / 2⌋, by linarith⟩
    · exact ⟨⌊|q| + 1 / 2⌋ - 1, by push_cast; linarith⟩
  · rintro ⟨k, hk⟩
    have hfloor : ⌊|q| + 1 / 2⌋ = k + 1 := by
      rw [hk, add_assoc, add_halves, ← Int.cast_one, ← Int.cast_add, Int.floor_intCast]
    rw [hfloor, hk]
    push_cast
    norm_num

theorem roundHalfAway_intCast (n : ℤ) : roundHalfAway n = n := by
  have hdist := abs_sub_roundHalfAway_le (n : ℚ)
  have hlt : |n - roundHalfAway n| < 1 := by
    have : |((n - roundHalfAway n : ℤ) : ℚ)| < 1 := by
      push_cast
      linarith
    exact_mod_cast this
  rw [Int.abs_lt_one_iff] at hlt
  omega

theorem roundHalfAway_neg (q : ℚ) : roundHalfAway (-q) = -roundHalfAway q := by
  rcases lt_trichotomy q 0 with hq | rfl | hq
  · rw [roundHalfAway, roundHalfAway, if_neg (by linarith), if_pos hq, neg_neg]
  · have hzero := roundHalfAway_intCast 0
    rw [Int.cast_zero] at hzero
    rw [neg_zero, hzero, neg_zero]
  · rw [roundHalfAway, roundHalfAway, if_pos (by linarith), if_neg (by linarith), neg_neg]

/-- On the grid of the multiples of `γ` the distance scales. -/
theorem abs_sub_roundHalfAway_mul (y : ℚ) {γ : ℚ} (hγ : 0 < γ) :
    |y - roundHalfAway (y / γ) * γ| = |y / γ - roundHalfAway (y / γ)| * γ := by
  rw [← abs_of_pos hγ, ← abs_mul, abs_of_pos hγ, sub_mul, div_mul_cancel₀ y hγ.ne']

/-- A multiple of `γ` is its own nearest multiple. -/
theorem roundHalfAway_mul_of_eq {y γ : ℚ} {n : ℤ} (hγ : 0 < γ) (hy : y = n * γ) : roundHalfAway (y / γ) * γ = y := by
  rw [hy, mul_div_cancel_right₀ _ hγ.ne', roundHalfAway_intCast]

theorem gammaOf_two_zpow_bounds (j : ℤ) :
    gammaOf (2 ^ j) ≤ 2 ^ j ∧ (2 : ℚ) ^ j < 10 ^ (Int.log 10 ((2 : ℚ) ^ j) + 1) := by
  refine ⟨gammaOf_le (by positivity), ?_⟩
  rw [zpow_add_one₀ (by norm_num), mul_comm]
  exact lt_ten_mul_gammaOf _

/-- A positive power of ten brings a factor 5, which no power of two has. -/
theorem nonpos_of_two_zpow_eq_mul {j g : ℤ} {n : ℕ} (hj : 0 ≤ j) (h : (2 : ℚ) ^ j = n * 10 ^ g) : g ≤ 0 := by
  by_contra hg
  obtain ⟨i, rfl⟩ := Int.eq_ofNat_of_zero_le (show 0 ≤ g by omega)
  obtain ⟨c, rfl⟩ := Int.eq_ofNat_of_zero_le hj
  have hnat : 2 ^ c = n * 10 ^ i := by exact_mod_cast h
  have hfive : 5 ∣ 2 ^ c := by
    rw [hnat]
    exact Dvd.dvd.mul_left (Dvd.dvd.trans (by norm_num) (dvd_pow_self 10 (by omega))) n
  exact absurd (Nat.Prime.dvd_of_dvd_pow (by norm_num) hfive) (by norm_num)

/-- A multiple of a negative power of ten has at least its factors 2 (compare `le_of_odd_scaled_eq`). -/
theorem le_of_two_zpow_eq_mul {j g : ℤ} {n : ℕ} (hg : g ≤ 0) (h : (2 : ℚ) ^ j = n * 10 ^ g) : g ≤ j := by
  obtain ⟨i, hi⟩ := Int.eq_ofNat_of_zero_le (show 0 ≤ -g by omega)
  obtain rfl : g = -(i : ℤ) := by omega
  refine le_of_odd_scaled_eq (m := 5 ^ i) (n := n) (Nat.odd_iff.1 (Odd.pow (by decide))) ?_
  rw [h, show (10 : ℚ) = 5 * 2 by norm_num, mul_zpow, zpow_neg 5, zpow_natCast 5]
  push_cast
  field_simp

/-- A multiple of `γ = 10^g` needs `g ≤ 0` at scales `j ≥ 0`, where then `2^j < 10`, and `g ≤ j` below, where then
`2^j < 10^(j + 1)`. -/
theorem scale_range_of_two_zpow_eq_mul {j : ℤ} {n : ℕ} (h : (2 : ℚ) ^ j = n * gammaOf (2 ^ j)) : -1 ≤ j ∧ j ≤ 3 := by
  obtain ⟨hle, hlt⟩ := gammaOf_two_zpow_bounds j
  rw [gammaOf] at h hle
  generalize Int.log 10 ((2 : ℚ) ^ j) = g at *
  rcases le_or_gt 0 j with hj | hj
  · have hg := nonpos_of_two_zpow_eq_mul hj h
    have hten : (2 : ℚ) ^ j < 2 ^ (4 : ℤ) :=
      calc (2 : ℚ) ^ j < 10 ^ (g + 1) := hlt
        _ ≤ 10 ^ (1 : ℤ) := zpow_le_zpow_right₀ (by norm_num) (by omega)
        _ < 2 ^ (4 : ℤ) := by norm_num
    have := (zpow_lt_zpow_iff_right₀ (by norm_num : (1 : ℚ) < 2)).1 hten
    omega
  · have hone : (10 : ℚ) ^ g < 10 ^ (0 : ℤ) := hle.trans_lt (zpow_lt_one_of_neg₀ (by norm_num) hj)
    have hg := (zpow_lt_zpow_iff_right₀ (by norm_num)).1 hone
    have hgj := le_of_two_zpow_eq_mul hg.le h
    refine ⟨?_, by omega⟩
    by_contra hsmall
    have hge : (10 : ℚ) ^ (g + 1) ≤ 2 ^ j :=
      calc (10 : ℚ) ^ (g + 1) ≤ 10 ^ (j + 1) := zpow_le_zpow_right₀ (by norm_num) (by omega)
        _ ≤ 2 ^ j := ten_zpow_le_two_zpow (by omega) (by omega)
    exact hge.not_gt hlt

/-- `γ` divides `δ/2` exactly for `1 ≤ δ ≤ 16` (43_decimal_rounder.md R105 (iv)). -/
theorem gammaOf_dvd_two_zpow_iff (j : ℤ) : (∃ k : ℤ, (2 : ℚ) ^ j = k * gammaOf (2 ^ j)) ↔ -1 ≤ j ∧ j ≤ 3 := by
  constructor
  · rintro ⟨k, hk⟩
    have hpos : (0 : ℚ) < 2 ^ j := by positivity
    have hk0 : (0 : ℚ) < k := pos_of_mul_pos_left (hpos.trans_eq hk) (gammaOf_pos _).le
    obtain ⟨n, rfl⟩ := Int.eq_ofNat_of_zero_le (show 0 ≤ k from le_of_lt (by exact_mod_cast hk0))
    exact scale_range_of_two_zpow_eq_mul hk
  · rintro ⟨hlow, hhigh⟩
    rcases hlow.eq_or_lt with rfl | hnonneg
    · have hlog : Int.log 10 ((2 : ℚ) ^ (-1 : ℤ)) = -1 := int_log_eq (by norm_num) (by norm_num) (by norm_num)
      exact ⟨5, by rw [gammaOf, hlog]; norm_num⟩
    · obtain ⟨i, rfl⟩ := Int.eq_ofNat_of_zero_le (show 0 ≤ j by omega)
      have hten : (2 : ℚ) ^ (i : ℤ) < 10 := (zpow_le_zpow_right₀ (by norm_num) hhigh).trans_lt (by norm_num)
      have hlog : Int.log 10 ((2 : ℚ) ^ (i : ℤ)) = 0 :=
        int_log_eq (by norm_num) (by simpa using one_le_pow₀ one_le_two) (by simpa using hten)
      exact ⟨2 ^ i, by rw [gammaOf, hlog]; push_cast; simp⟩

end Sys2Proof.Machine

/-! PROOFS. `DRND` (43_decimal_rounder.md R101, R105, R106): what the decimal of a success says of `y`, and the operand
of the other sign. -/

namespace Sys2Proof.Machine

/-- A success of `DRND` in exact values: `δ = 2^(j + 1)`, `10^g = γ`, and the decimal is the multiple of `γ` nearest to
`y` (43_decimal_rounder.md R99, R104). -/
theorem drnd_ok_decimal {a b : B64} (h : (drnd a b).status = 0) :
    ∃ (m : ℕ) (j : ℤ), OddForm a m j ∧ val b = 2 * 2 ^ j ∧ (10 : ℚ) ^ (drnd a b).r1.toInt = gammaOf (2 ^ j) ∧
      decimalValue (drnd a b).r0 (drnd a b).r1 = roundHalfAway (val a / gammaOf (2 ^ j)) * gammaOf (2 ^ j) := by
  obtain ⟨m, j, hodd, -, hb, hn, hg⟩ := drnd_ok h
  refine ⟨m, j, hodd, by rw [hb, zpow_add_one₀ (by norm_num), mul_comm], by rw [hg, gammaOf], ?_⟩
  rw [decimalValue, hn, hg, gammaOf]

/-- The distance `γ/2` is reached at the midpoints alone, which are those of `δ = 1/2` (43_decimal_rounder.md R102). -/
theorem OddForm.abs_sub_decimal_eq_iff {a : B64} {m : ℕ} {j : ℤ} (h : OddForm a m j) :
    |val a - roundHalfAway (val a / gammaOf (2 ^ j)) * gammaOf (2 ^ j)| = gammaOf (2 ^ j) / 2 ↔ j = -2 := by
  have hγ := gammaOf_pos (2 ^ j)
  rw [abs_sub_roundHalfAway_mul _ hγ, ← h.midpoint_iff, ← abs_sub_roundHalfAway_eq_iff,
    show gammaOf (2 ^ j) / 2 = 1 / 2 * gammaOf (2 ^ j) by ring, mul_left_inj' hγ.ne']

/-- Where `γ` divides `δ/2` the decimal is `y` itself (43_decimal_rounder.md R105 (iv)). -/
theorem OddForm.decimal_eq_of_dvd {a : B64} {m : ℕ} {j k : ℤ} (h : OddForm a m j)
    (hk : (2 : ℚ) ^ j = k * gammaOf (2 ^ j)) : roundHalfAway (val a / gammaOf (2 ^ j)) * gammaOf (2 ^ j) = val a := by
  obtain ⟨c, hc⟩ := h.exists_val_eq
  refine roundHalfAway_mul_of_eq (n := (2 * c + 1) * k) (gammaOf_pos _) ?_
  rw [hc, Int.cast_mul, mul_assoc, ← hk]
  push_cast
  rfl

theorem two_mul_two_zpow_eq_iff {j k : ℤ} : (2 : ℚ) * 2 ^ j = 2 ^ k ↔ j = k - 1 := by
  rw [← zpow_one_add₀ (by norm_num), zpow_right_inj₀ (by norm_num) (by norm_num)]
  omega

theorem le_two_mul_two_zpow_iff {j k : ℤ} : (2 : ℚ) ^ k ≤ 2 * 2 ^ j ↔ k - 1 ≤ j := by
  rw [← zpow_one_add₀ (by norm_num), zpow_le_zpow_iff_right₀ (by norm_num)]
  omega

theorem two_mul_two_zpow_le_iff {j k : ℤ} : (2 : ℚ) * 2 ^ j ≤ 2 ^ k ↔ j ≤ k - 1 := by
  rw [← zpow_one_add₀ (by norm_num), zpow_le_zpow_iff_right₀ (by norm_num)]
  omega

/-- `1 ≤ δ ≤ 16` in the scale of `y`. -/
theorem delta_range_iff (j : ℤ) : (1 : ℚ) ≤ 2 * 2 ^ j ∧ (2 : ℚ) * 2 ^ j ≤ 16 ↔ -1 ≤ j ∧ j ≤ 3 := by
  rw [show (1 : ℚ) = 2 ^ (0 : ℤ) by norm_num, show (16 : ℚ) = 2 ^ (4 : ℤ) by norm_num, le_two_mul_two_zpow_iff,
    two_mul_two_zpow_le_iff]
  norm_num

/-- Settles O50: with `δ/2 = 2^j` each item is a fact about `γ = gammaOf (2^j)`: its bounds, when it is `2^j`
(`gammaOf_two_zpow_eq_iff`), when it divides `2^j` (`gammaOf_dvd_two_zpow_iff`), and the distance to the nearest
multiple. -/
theorem roundPostconditions : Obligations.RoundPostconditions := by
  unfold Obligations.RoundPostconditions
  intro s t a b hexec hstatus
  obtain rfl := eq_answer_of_exec hexec
  obtain ⟨m, j, h, hb, hg, hz⟩ := drnd_ok_decimal hstatus
  have hγ := gammaOf_le (h := 2 ^ j) (by positivity)
  have hlt := lt_ten_mul_gammaOf (2 ^ j)
  have hdist := abs_sub_roundHalfAway_mul_le (val a) (gammaOf_pos (2 ^ j))
  have htwo : (2 : ℚ) * 2 ^ j = 2 ↔ j = 0 := by simpa using two_mul_two_zpow_eq_iff (j := j) (k := 1)
  have hhalf : (2 : ℚ) * 2 ^ j = 1 / 2 ↔ j = -2 := by simpa using two_mul_two_zpow_eq_iff (j := j) (k := -1)
  simp only [State.answer_r0, State.answer_r1, responseOf, hb, hg, hz, mul_div_cancel_left₀ _ (two_ne_zero' ℚ), htwo,
    hhalf, h.abs_sub_decimal_eq_iff, gammaOf_two_zpow_eq_iff, gammaOf_dvd_two_zpow_iff, delta_range_iff, true_and]
  refine ⟨⟨hγ, hlt⟩, hdist, by linarith, fun hlow hhigh => ?_⟩
  obtain ⟨k, hk⟩ := (gammaOf_dvd_two_zpow_iff j).2 ((delta_range_iff j).1 ⟨hlow, hhigh⟩)
  exact h.decimal_eq_of_dvd hk

theorem OddForm.xor_signMask {a : B64} {m : ℕ} {j : ℤ} (h : OddForm a m j) : OddForm (a ^^^ signMask) m j :=
  ⟨by rw [finite_xor_signMask, h.finite], h.odd, by rw [val_xor_signMask, abs_neg, h.abs_val]⟩

theorem drnd_of_invalid {a : B64} (h : finite a = false ∨ iszero a = true) (b : B64) :
    drnd a b = .raised .zeroOrNonFiniteSignificantValue := by
  rw [drnd, if_pos (by simpa [significantInvalid] using h)]

/-- The other sign takes the same way through the checks, and the rounding is symmetric (`roundHalfAway_neg`). -/
theorem drnd_xor_signMask (a b : B64) :
    (drnd (a ^^^ signMask) b).status = (drnd a b).status ∧ (drnd (a ^^^ signMask) b).r1 = (drnd a b).r1 ∧
      (drnd (a ^^^ signMask) b).r0.toInt = -(drnd a b).r0.toInt := by
  have hout := drnd_outcome a b
  generalize drnd a b = r at hout
  cases hout with
  | invalid h =>
    rw [drnd_of_invalid (by simpa using h)]
    exact ⟨rfl, rfl, rfl⟩
  | rangeOverflow m h =>
    rw [h.xor_signMask.drnd_eq, if_pos rfl]
    exact ⟨rfl, rfl, rfl⟩
  | invalidUncertainty m j h hj hb =>
    rw [h.xor_signMask.drnd_of_ne hj hb]
    exact ⟨rfl, rfl, rfl⟩
  | ok m j h hj hb n g hn hg =>
    obtain ⟨n', g', hdrnd, hn', hg'⟩ := h.xor_signMask.drnd_of_eq hj hb
    rw [hdrnd]
    refine ⟨rfl, BitVec.eq_of_toInt_eq (hg'.trans hg.symm), ?_⟩
    rw [Response.r0_returned, Response.r0_returned, hn', hn, val_xor_signMask, neg_div, roundHalfAway_neg]

/-- Settles O51: `drnd_xor_signMask` is the statement for the responses. -/
theorem roundReflectsSign : Obligations.RoundReflectsSign := by
  unfold Obligations.RoundReflectsSign
  intro s t u a b ht hu
  obtain rfl := eq_answer_of_exec ht
  obtain rfl := eq_answer_of_exec hu
  exact drnd_xor_signMask a b

/-- Two odd multiples of `h` are equal or at least `2h` apart, so only one lies within `h/2` of a point. -/
theorem eq_of_oddMultipleOf_of_near {y y' z h : ℚ} (hh : 0 < h) (hy : oddMultipleOf y h) (hy' : oddMultipleOf y' h)
    (hz : |y - z| ≤ h / 2) (hz' : |y' - z| ≤ h / 2) : y = y' := by
  obtain ⟨m, hm, rfl⟩ := hy
  obtain ⟨n, hn, rfl⟩ := hy'
  have hdist : |((m - n : ℤ) : ℚ)| * h ≤ 1 * h :=
    calc |((m - n : ℤ) : ℚ)| * h = |m * h - n * h| := by rw [← sub_mul, abs_mul, abs_of_pos hh, Int.cast_sub]
      _ ≤ |m * h - z| + |z - n * h| := abs_sub_le _ _ _
      _ ≤ 1 * h := by rw [abs_sub_comm z]; linarith
  have hone : |m - n| ≤ 1 := by exact_mod_cast le_of_mul_le_mul_right hdist hh
  obtain ⟨c, hc⟩ := hm.sub_odd hn
  have hmn : m = n := by
    rw [hc, abs_le] at hone
    omega
  rw [hmn]

/-- On a success `y` is an odd multiple of `δ/2` within `δ/4` of the decimal (43_decimal_rounder.md R105 (ii)). -/
theorem drnd_ok_near {a b : B64} (h : (drnd a b).status = 0) :
    finite a = true ∧ iszero a = false ∧ 0 < val b / 2 ∧ oddMultipleOf (val a) (val b / 2) ∧
      |val a - decimalValue (drnd a b).r0 (drnd a b).r1| ≤ val b / 2 / 2 := by
  obtain ⟨m, j, hodd, hb, -, hz⟩ := drnd_ok_decimal h
  have hγ := gammaOf_le (h := 2 ^ j) (by positivity)
  have hdist := abs_sub_roundHalfAway_mul_le (val a) (gammaOf_pos (2 ^ j))
  rw [hb, hz, mul_div_cancel_left₀ _ (two_ne_zero' ℚ)]
  exact ⟨hodd.finite, hodd.iszero_eq_false, by positivity, hodd.oddMultipleOf, by linarith⟩

/-- Settles O52: near the decimal there is one odd multiple of `δ/2` (`eq_of_oddMultipleOf_of_near`), and its value has
one pattern (`eq_of_val`). -/
theorem decimalWithDeltaDeterminesY : Obligations.DecimalWithDeltaDeterminesY := by
  unfold Obligations.DecimalWithDeltaDeterminesY
  constructor
  · intro s t t' a a' b hexec hexec' hstatus hstatus' hz
    obtain rfl := eq_answer_of_exec hexec
    obtain rfl := eq_answer_of_exec hexec'
    obtain ⟨hf, hzero, hδ, hodd, hnear⟩ := drnd_ok_near hstatus
    obtain ⟨hf', -, -, hodd', hnear'⟩ := drnd_ok_near hstatus'
    simp only [State.answer_r0, State.answer_r1, responseOf] at hz
    rw [hz] at hnear
    exact eq_of_val hf hf' hzero (eq_of_oddMultipleOf_of_near hδ hodd hodd' hnear hnear')
  · intro s t a b hexec hstatus y hy hle
    obtain rfl := eq_answer_of_exec hexec
    obtain ⟨-, -, hδ, hodd, hnear⟩ := drnd_ok_near hstatus
    exact eq_of_oddMultipleOf_of_near hδ hy hodd (hle.trans hnear) hnear

/-- After `ENC` the lowest set bit is that of `δ/2 ≤ 2^1022`, which the range check of `DRND` lets pass
(41_encoder.md R76 (iii)). -/
theorem oddForm_enc {a b : B64} (h : (enc a b).status = 0) :
    ∃ (m : ℕ) (j : ℤ), OddForm (enc a b).r0 m j ∧ j ≤ 1022 := by
  obtain ⟨hops, hf, hz, -⟩ := enc_ok h
  have hhigh := hops.log_bounds.2
  have hform := oddForm_lsb hf hz
  rw [lsb_enc h] at hform
  exact ⟨_, _, hform, by dsimp only; omega⟩

/-- Settles O54: an encoded value passes the domain check and has `j ≤ 1022` (`oddForm_enc`); the `δ` of `DEC` is the one
`DRND` wants (`drnd_of_dec_ok`). -/
theorem pipelineOperandsFit : Obligations.PipelineOperandsFit := by
  unfold Obligations.PipelineOperandsFit
  constructor
  · intro s t a b hexec hstatus
    obtain rfl := eq_answer_of_exec hexec
    obtain ⟨m, j, h, hj⟩ := oddForm_enc hstatus
    constructor
    · intro c u hdec
      obtain ⟨hdomain, -⟩ := decodeStatusClosedForm _ u _ c hdec
      obtain rfl := eq_answer_of_exec hdec
      obtain h3 | h4 | h0 := dec_status (enc a b).r0
      · exact absurd (hdomain.1 h3) (by simp [responseOf, h.finite, h.iszero_eq_false])
      · exact .inr h4
      · exact .inl h0
    · intro d u hdrnd
      obtain rfl := eq_answer_of_exec hdrnd
      rw [State.answer_status, State.answer_r0, responseOf, responseOf]
      by_cases hd : d = pow2 (j + 1)
      · obtain ⟨n, g, hok, -⟩ := h.drnd_of_eq hj hd
        rw [hok]
        exact .inl rfl
      · rw [h.drnd_of_ne hj hd]
        exact .inr rfl
  · intro s t y c hexec hstatus
    obtain rfl := eq_answer_of_exec hexec
    obtain ⟨j, n, g, -, hdrnd, -⟩ := drnd_of_dec_ok hstatus
    exact ⟨_, exec_drnd_of_returned hdrnd _, rfl⟩

end Sys2Proof.Machine
